-- ==== Sys2Proof/Word.lean ====
section
/-! DEFINITION. The word types of the machine (00_scope.md R7, R10, R11). -/

namespace Sys2Proof

/-- A 32-bit register, instruction word, program address or physical address (R7 `XLEN` = 32). -/
abbrev Word := BitVec 32

/-- One byte of memory. -/
abbrev Byte := BitVec 8

/-- A 5-bit register specifier: a general, FP or coprocessor register number (30_encoding.md R162). -/
abbrev Reg := BitVec 5

end Sys2Proof
end

