-- ==== Sys2Proof/Syntax.lean ====
section
/-! DEFINITION. One constructor per row of spec/opcode_table.json, operands in the assembler's order (30_encoding.md R177). -/

namespace Sys2Proof

/-- The machine instructions (30_encoding.md R179). Fields the hardware ignores (R166) are no operands. -/
inductive Instr where
  /-- `sll` (R231). -/
  | sll (rd : Reg) (rt : Reg) (shamt : BitVec 5)
  /-- `srl` (R232). -/
  | srl (rd : Reg) (rt : Reg) (shamt : BitVec 5)
  /-- `sra` (R233). -/
  | sra (rd : Reg) (rt : Reg) (shamt : BitVec 5)
  /-- `sllv` (R234). -/
  | sllv (rd : Reg) (rt : Reg) (rs : Reg)
  /-- `srlv` (R235). -/
  | srlv (rd : Reg) (rt : Reg) (rs : Reg)
  /-- `srav` (R236). -/
  | srav (rd : Reg) (rt : Reg) (rs : Reg)
  /-- `jr` (R316). -/
  | jr (rs : Reg)
  /-- `jalr` (R317). -/
  | jalr (rd : Reg) (rs : Reg)
  /-- `syscall` (R330). -/
  | syscall (code : BitVec 20)
  /-- `break` (R331). -/
  | break_ (code : BitVec 20)
  /-- `mfhi` (R249). -/
  | mfhi (rd : Reg)
  /-- `mthi` (R251). -/
  | mthi (rs : Reg)
  /-- `mflo` (R250). -/
  | mflo (rd : Reg)
  /-- `mtlo` (R252). -/
  | mtlo (rs : Reg)
  /-- `mult` (R243). -/
  | mult (rs : Reg) (rt : Reg)
  /-- `multu` (R244). -/
  | multu (rs : Reg) (rt : Reg)
  /-- `div` (R245). -/
  | div (rs : Reg) (rt : Reg)
  /-- `divu` (R246). -/
  | divu (rs : Reg) (rt : Reg)
  /-- `add` (R203). -/
  | add (rd : Reg) (rs : Reg) (rt : Reg)
  /-- `addu` (R204). -/
  | addu (rd : Reg) (rs : Reg) (rt : Reg)
  /-- `sub` (R205). -/
  | sub (rd : Reg) (rs : Reg) (rt : Reg)
  /-- `subu` (R206). -/
  | subu (rd : Reg) (rs : Reg) (rt : Reg)
  /-- `and` (R209). -/
  | and (rd : Reg) (rs : Reg) (rt : Reg)
  /-- `or` (R210). -/
  | or (rd : Reg) (rs : Reg) (rt : Reg)
  /-- `xor` (R211). -/
  | xor (rd : Reg) (rs : Reg) (rt : Reg)
  /-- `nor` (R212). -/
  | nor (rd : Reg) (rs : Reg) (rt : Reg)
  /-- `slt` (R217). -/
  | slt (rd : Reg) (rs : Reg) (rt : Reg)
  /-- `sltu` (R218). -/
  | sltu (rd : Reg) (rs : Reg) (rt : Reg)
  /-- `bltz` (R310). -/
  | bltz (rs : Reg) (offset : BitVec 16)
  /-- `bgez` (R311). -/
  | bgez (rs : Reg) (offset : BitVec 16)
  /-- `bltzal` (R312). -/
  | bltzal (rs : Reg) (offset : BitVec 16)
  /-- `bgezal` (R313). -/
  | bgezal (rs : Reg) (offset : BitVec 16)
  /-- `j` (R314). -/
  | j (target : BitVec 26)
  /-- `jal` (R315). -/
  | jal (target : BitVec 26)
  /-- `beq` (R306). -/
  | beq (rs : Reg) (rt : Reg) (offset : BitVec 16)
  /-- `bne` (R307). -/
  | bne (rs : Reg) (rt : Reg) (offset : BitVec 16)
  /-- `blez` (R308). -/
  | blez (rs : Reg) (offset : BitVec 16)
  /-- `bgtz` (R309). -/
  | bgtz (rs : Reg) (offset : BitVec 16)
  /-- `addi` (R207). -/
  | addi (rt : Reg) (rs : Reg) (imm : BitVec 16)
  /-- `addiu` (R208). -/
  | addiu (rt : Reg) (rs : Reg) (imm : BitVec 16)
  /-- `slti` (R219). -/
  | slti (rt : Reg) (rs : Reg) (imm : BitVec 16)
  /-- `sltiu` (R220). -/
  | sltiu (rt : Reg) (rs : Reg) (imm : BitVec 16)
  /-- `andi` (R213). -/
  | andi (rt : Reg) (rs : Reg) (imm : BitVec 16)
  /-- `ori` (R214). -/
  | ori (rt : Reg) (rs : Reg) (imm : BitVec 16)
  /-- `xori` (R215). -/
  | xori (rt : Reg) (rs : Reg) (imm : BitVec 16)
  /-- `lui` (R216). -/
  | lui (rt : Reg) (imm : BitVec 16)
  /-- `lb` (R265). -/
  | lb (rt : Reg) (offset : BitVec 16) (base : Reg)
  /-- `lh` (R267). -/
  | lh (rt : Reg) (offset : BitVec 16) (base : Reg)
  /-- `lwl` (R276). -/
  | lwl (rt : Reg) (offset : BitVec 16) (base : Reg)
  /-- `lw` (R269). -/
  | lw (rt : Reg) (offset : BitVec 16) (base : Reg)
  /-- `lbu` (R266). -/
  | lbu (rt : Reg) (offset : BitVec 16) (base : Reg)
  /-- `lhu` (R268). -/
  | lhu (rt : Reg) (offset : BitVec 16) (base : Reg)
  /-- `lwr` (R277). -/
  | lwr (rt : Reg) (offset : BitVec 16) (base : Reg)
  /-- `sb` (R270). -/
  | sb (rt : Reg) (offset : BitVec 16) (base : Reg)
  /-- `sh` (R271). -/
  | sh (rt : Reg) (offset : BitVec 16) (base : Reg)
  /-- `swl` (R278). -/
  | swl (rt : Reg) (offset : BitVec 16) (base : Reg)
  /-- `sw` (R272). -/
  | sw (rt : Reg) (offset : BitVec 16) (base : Reg)
  /-- `swr` (R279). -/
  | swr (rt : Reg) (offset : BitVec 16) (base : Reg)
  /-- `mfc0` (R336). -/
  | mfc0 (rt : Reg) (rd : Reg)
  /-- `mtc0` (R337). -/
  | mtc0 (rt : Reg) (rd : Reg)
  /-- `cfc0` (R339). -/
  | cfc0 (rt : Reg) (rd : Reg)
  /-- `ctc0` (R339). -/
  | ctc0 (rt : Reg) (rd : Reg)
  /-- `tlbr` (R344). -/
  | tlbr
  /-- `tlbwi` (R345). -/
  | tlbwi
  /-- `tlbwr` (R346). -/
  | tlbwr
  /-- `tlbp` (R347). -/
  | tlbp
  /-- `rfe` (R341). -/
  | rfe
  /-- `bc0f` (R318). -/
  | bc0f (offset : BitVec 16)
  /-- `bc0t` (R318). -/
  | bc0t (offset : BitVec 16)
  /-- `bc1f` (R427). -/
  | bc1f (offset : BitVec 16)
  /-- `bc1t` (R427). -/
  | bc1t (offset : BitVec 16)
  /-- `bc2f` (R318). -/
  | bc2f (offset : BitVec 16)
  /-- `bc2t` (R318). -/
  | bc2t (offset : BitVec 16)
  /-- `bc3f` (R318). -/
  | bc3f (offset : BitVec 16)
  /-- `bc3t` (R318). -/
  | bc3t (offset : BitVec 16)
  /-- `mfc2` (R353). -/
  | mfc2 (rt : Reg) (rd : Reg)
  /-- `cfc2` (R355). -/
  | cfc2 (rt : Reg) (rd : Reg)
  /-- `mtc2` (R354). -/
  | mtc2 (rt : Reg) (rd : Reg)
  /-- `ctc2` (R356). -/
  | ctc2 (rt : Reg) (rd : Reg)
  /-- `cop2` (R359). -/
  | cop2 (cofun : BitVec 25)
  /-- `mfc3` (R360). -/
  | mfc3 (rt : Reg) (rd : Reg)
  /-- `cfc3` (R355). -/
  | cfc3 (rt : Reg) (rd : Reg)
  /-- `mtc3` (R354). -/
  | mtc3 (rt : Reg) (rd : Reg)
  /-- `ctc3` (R356). -/
  | ctc3 (rt : Reg) (rd : Reg)
  /-- `cop3` (R359). -/
  | cop3 (cofun : BitVec 25)
  /-- `mfc1` (R430). -/
  | mfc1 (rt : Reg) (fs : Reg)
  /-- `cfc1` (R428). -/
  | cfc1 (rt : Reg) (fs : Reg)
  /-- `mtc1` (R431). -/
  | mtc1 (rt : Reg) (fs : Reg)
  /-- `ctc1` (R429). -/
  | ctc1 (rt : Reg) (fs : Reg)
  /-- `lwc0` (R339). -/
  | lwc0 (rt : Reg) (offset : BitVec 16) (base : Reg)
  /-- `swc0` (R339). -/
  | swc0 (rt : Reg) (offset : BitVec 16) (base : Reg)
  /-- `lwc1` (R433). -/
  | lwc1 (ft : Reg) (offset : BitVec 16) (base : Reg)
  /-- `swc1` (R434). -/
  | swc1 (ft : Reg) (offset : BitVec 16) (base : Reg)
  /-- `lwc2` (R357). -/
  | lwc2 (rt : Reg) (offset : BitVec 16) (base : Reg)
  /-- `lwc3` (R357). -/
  | lwc3 (rt : Reg) (offset : BitVec 16) (base : Reg)
  /-- `swc2` (R358). -/
  | swc2 (rt : Reg) (offset : BitVec 16) (base : Reg)
  /-- `swc3` (R360). -/
  | swc3 (rt : Reg) (offset : BitVec 16) (base : Reg)
  /-- `add.s` (R385). -/
  | addS (fd : Reg) (fs : Reg) (ft : Reg)
  /-- `add.d` (R386). -/
  | addD (fd : Reg) (fs : Reg) (ft : Reg)
  /-- `sub.s` (R387). -/
  | subS (fd : Reg) (fs : Reg) (ft : Reg)
  /-- `sub.d` (R388). -/
  | subD (fd : Reg) (fs : Reg) (ft : Reg)
  /-- `mul.s` (R389). -/
  | mulS (fd : Reg) (fs : Reg) (ft : Reg)
  /-- `mul.d` (R390). -/
  | mulD (fd : Reg) (fs : Reg) (ft : Reg)
  /-- `div.s` (R391). -/
  | divS (fd : Reg) (fs : Reg) (ft : Reg)
  /-- `div.d` (R392). -/
  | divD (fd : Reg) (fs : Reg) (ft : Reg)
  /-- `abs.s` (R393). -/
  | absS (fd : Reg) (fs : Reg)
  /-- `abs.d` (R394). -/
  | absD (fd : Reg) (fs : Reg)
  /-- `neg.s` (R395). -/
  | negS (fd : Reg) (fs : Reg)
  /-- `neg.d` (R396). -/
  | negD (fd : Reg) (fs : Reg)
  /-- `mov.s` (R397). -/
  | movS (fd : Reg) (fs : Reg)
  /-- `mov.d` (R398). -/
  | movD (fd : Reg) (fs : Reg)
  /-- `cvt.s.d` (R401). -/
  | cvtSD (fd : Reg) (fs : Reg)
  /-- `cvt.s.w` (R402). -/
  | cvtSW (fd : Reg) (fs : Reg)
  /-- `cvt.d.s` (R403). -/
  | cvtDS (fd : Reg) (fs : Reg)
  /-- `cvt.d.w` (R404). -/
  | cvtDW (fd : Reg) (fs : Reg)
  /-- `cvt.w.s` (R405). -/
  | cvtWS (fd : Reg) (fs : Reg)
  /-- `cvt.w.d` (R406). -/
  | cvtWD (fd : Reg) (fs : Reg)
  /-- `c.f.s` (R411). -/
  | cFS (fs : Reg) (ft : Reg)
  /-- `c.f.d` (R411). -/
  | cFD (fs : Reg) (ft : Reg)
  /-- `c.un.s` (R412). -/
  | cUnS (fs : Reg) (ft : Reg)
  /-- `c.un.d` (R412). -/
  | cUnD (fs : Reg) (ft : Reg)
  /-- `c.eq.s` (R413). -/
  | cEqS (fs : Reg) (ft : Reg)
  /-- `c.eq.d` (R413). -/
  | cEqD (fs : Reg) (ft : Reg)
  /-- `c.ueq.s` (R414). -/
  | cUeqS (fs : Reg) (ft : Reg)
  /-- `c.ueq.d` (R414). -/
  | cUeqD (fs : Reg) (ft : Reg)
  /-- `c.olt.s` (R415). -/
  | cOltS (fs : Reg) (ft : Reg)
  /-- `c.olt.d` (R415). -/
  | cOltD (fs : Reg) (ft : Reg)
  /-- `c.ult.s` (R416). -/
  | cUltS (fs : Reg) (ft : Reg)
  /-- `c.ult.d` (R416). -/
  | cUltD (fs : Reg) (ft : Reg)
  /-- `c.ole.s` (R417). -/
  | cOleS (fs : Reg) (ft : Reg)
  /-- `c.ole.d` (R417). -/
  | cOleD (fs : Reg) (ft : Reg)
  /-- `c.ule.s` (R418). -/
  | cUleS (fs : Reg) (ft : Reg)
  /-- `c.ule.d` (R418). -/
  | cUleD (fs : Reg) (ft : Reg)
  /-- `c.sf.s` (R419). -/
  | cSfS (fs : Reg) (ft : Reg)
  /-- `c.sf.d` (R419). -/
  | cSfD (fs : Reg) (ft : Reg)
  /-- `c.ngle.s` (R420). -/
  | cNgleS (fs : Reg) (ft : Reg)
  /-- `c.ngle.d` (R420). -/
  | cNgleD (fs : Reg) (ft : Reg)
  /-- `c.seq.s` (R421). -/
  | cSeqS (fs : Reg) (ft : Reg)
  /-- `c.seq.d` (R421). -/
  | cSeqD (fs : Reg) (ft : Reg)
  /-- `c.ngl.s` (R422). -/
  | cNglS (fs : Reg) (ft : Reg)
  /-- `c.ngl.d` (R422). -/
  | cNglD (fs : Reg) (ft : Reg)
  /-- `c.lt.s` (R423). -/
  | cLtS (fs : Reg) (ft : Reg)
  /-- `c.lt.d` (R423). -/
  | cLtD (fs : Reg) (ft : Reg)
  /-- `c.nge.s` (R424). -/
  | cNgeS (fs : Reg) (ft : Reg)
  /-- `c.nge.d` (R424). -/
  | cNgeD (fs : Reg) (ft : Reg)
  /-- `c.le.s` (R425). -/
  | cLeS (fs : Reg) (ft : Reg)
  /-- `c.le.d` (R425). -/
  | cLeD (fs : Reg) (ft : Reg)
  /-- `c.ngt.s` (R426). -/
  | cNgtS (fs : Reg) (ft : Reg)
  /-- `c.ngt.d` (R426). -/
  | cNgtD (fs : Reg) (ft : Reg)
  deriving DecidableEq, Repr

end Sys2Proof
end

