-- ==== Sys2Proof/Decode.lean ====
section
/-! DEFINITION. The decoder of 30_encoding.md R167-R176, total on words and on bytes, the encoder of the same
encodings, and each row of spec/opcode_table.json as mask and match. -/

namespace Sys2Proof

/-- Why a word is no instruction of the table (R175, R381), or why there is no word. -/
inductive DecodeError where
  /-- An unassigned major opcode (R168). -/
  | reservedOpcode (op : BitVec 6)
  /-- An unassigned SPECIAL function (R169). -/
  | reservedFunct (funct : BitVec 6)
  /-- An unassigned REGIMM selector (R170). -/
  | reservedRegimm (rt : BitVec 5)
  /-- COPz, bit 25 clear: an unassigned sub-opcode, or a BC word whose `rt` is not 0 or 1 (R171, R381). -/
  | reservedCopMove (z : BitVec 2) (rs : BitVec 5) (rt : BitVec 5)
  /-- COP0, bit 25 set, unassigned function (R172). -/
  | reservedCop0Operation (funct : BitVec 6)
  /-- COP1, bit 25 set, unassigned `fmt` and `funct` (R173, R381). -/
  | unimplementedFpOperation (fmt : BitVec 5) (funct : BitVec 6)
  /-- Fewer than four bytes. -/
  | truncated
  deriving DecidableEq, Repr

/-! ## The fields of a word (R161) -/

def opOf (w : Word) : BitVec 6 := w.extractLsb' 26 6
def rsOf (w : Word) : BitVec 5 := w.extractLsb' 21 5
def rtOf (w : Word) : BitVec 5 := w.extractLsb' 16 5
def rdOf (w : Word) : BitVec 5 := w.extractLsb' 11 5
def shamtOf (w : Word) : BitVec 5 := w.extractLsb' 6 5
def functOf (w : Word) : BitVec 6 := w.extractLsb' 0 6
def immOf (w : Word) : BitVec 16 := w.extractLsb' 0 16
def targetOf (w : Word) : BitVec 26 := w.extractLsb' 0 26
def codeOf (w : Word) : BitVec 20 := w.extractLsb' 6 20
def cofunOf (w : Word) : BitVec 25 := w.extractLsb' 0 25

/-! ## The decoder -/

/-- SPECIAL (R169). -/
def decodeSpecial (w : Word) : Except DecodeError Instr :=
  match (functOf w).toNat with
  | 0 => .ok (.sll (rdOf w) (rtOf w) (shamtOf w))
  | 2 => .ok (.srl (rdOf w) (rtOf w) (shamtOf w))
  | 3 => .ok (.sra (rdOf w) (rtOf w) (shamtOf w))
  | 4 => .ok (.sllv (rdOf w) (rtOf w) (rsOf w))
  | 6 => .ok (.srlv (rdOf w) (rtOf w) (rsOf w))
  | 7 => .ok (.srav (rdOf w) (rtOf w) (rsOf w))
  | 8 => .ok (.jr (rsOf w))
  | 9 => .ok (.jalr (rdOf w) (rsOf w))
  | 12 => .ok (.syscall (codeOf w))
  | 13 => .ok (.break_ (codeOf w))
  | 16 => .ok (.mfhi (rdOf w))
  | 17 => .ok (.mthi (rsOf w))
  | 18 => .ok (.mflo (rdOf w))
  | 19 => .ok (.mtlo (rsOf w))
  | 24 => .ok (.mult (rsOf w) (rtOf w))
  | 25 => .ok (.multu (rsOf w) (rtOf w))
  | 26 => .ok (.div (rsOf w) (rtOf w))
  | 27 => .ok (.divu (rsOf w) (rtOf w))
  | 32 => .ok (.add (rdOf w) (rsOf w) (rtOf w))
  | 33 => .ok (.addu (rdOf w) (rsOf w) (rtOf w))
  | 34 => .ok (.sub (rdOf w) (rsOf w) (rtOf w))
  | 35 => .ok (.subu (rdOf w) (rsOf w) (rtOf w))
  | 36 => .ok (.and (rdOf w) (rsOf w) (rtOf w))
  | 37 => .ok (.or (rdOf w) (rsOf w) (rtOf w))
  | 38 => .ok (.xor (rdOf w) (rsOf w) (rtOf w))
  | 39 => .ok (.nor (rdOf w) (rsOf w) (rtOf w))
  | 42 => .ok (.slt (rdOf w) (rsOf w) (rtOf w))
  | 43 => .ok (.sltu (rdOf w) (rsOf w) (rtOf w))
  | _ => .error (.reservedFunct (functOf w))

/-- REGIMM (R170). -/
def decodeRegimm (w : Word) : Except DecodeError Instr :=
  match (rtOf w).toNat with
  | 0 => .ok (.bltz (rsOf w) (immOf w))
  | 1 => .ok (.bgez (rsOf w) (immOf w))
  | 16 => .ok (.bltzal (rsOf w) (immOf w))
  | 17 => .ok (.bgezal (rsOf w) (immOf w))
  | _ => .error (.reservedRegimm (rtOf w))

/-- COP0 with bit 25 set (R172); bits 24:6 are not looked at (R166). -/
def decodeCop0Operation (w : Word) : Except DecodeError Instr :=
  match (functOf w).toNat with
  | 1 => .ok .tlbr
  | 2 => .ok .tlbwi
  | 6 => .ok .tlbwr
  | 8 => .ok .tlbp
  | 16 => .ok .rfe
  | _ => .error (.reservedCop0Operation (functOf w))

/-- COP0 (R171, R172). -/
def decodeCop0 (w : Word) : Except DecodeError Instr :=
  match (rsOf w).toNat with
  | 0 => .ok (.mfc0 (rtOf w) (rdOf w))
  | 4 => .ok (.mtc0 (rtOf w) (rdOf w))
  | 2 => .ok (.cfc0 (rtOf w) (rdOf w))
  | 6 => .ok (.ctc0 (rtOf w) (rdOf w))
  | 8 =>
    match (rtOf w).toNat with
    | 0 => .ok (.bc0f (immOf w))
    | 1 => .ok (.bc0t (immOf w))
    | _ => .error (.reservedCopMove 0 (rsOf w) (rtOf w))
  | n => if n < 16 then .error (.reservedCopMove 0 (rsOf w) (rtOf w)) else decodeCop0Operation w

/-- COP1 operations with `fmt` = 16 (R173). -/
def decodeFpSingle (w : Word) : Except DecodeError Instr :=
  match (functOf w).toNat with
  | 0 => .ok (.addS (shamtOf w) (rdOf w) (rtOf w))
  | 1 => .ok (.subS (shamtOf w) (rdOf w) (rtOf w))
  | 2 => .ok (.mulS (shamtOf w) (rdOf w) (rtOf w))
  | 3 => .ok (.divS (shamtOf w) (rdOf w) (rtOf w))
  | 5 => .ok (.absS (shamtOf w) (rdOf w))
  | 6 => .ok (.movS (shamtOf w) (rdOf w))
  | 7 => .ok (.negS (shamtOf w) (rdOf w))
  | 33 => .ok (.cvtDS (shamtOf w) (rdOf w))
  | 36 => .ok (.cvtWS (shamtOf w) (rdOf w))
  | 48 => .ok (.cFS (rdOf w) (rtOf w))
  | 49 => .ok (.cUnS (rdOf w) (rtOf w))
  | 50 => .ok (.cEqS (rdOf w) (rtOf w))
  | 51 => .ok (.cUeqS (rdOf w) (rtOf w))
  | 52 => .ok (.cOltS (rdOf w) (rtOf w))
  | 53 => .ok (.cUltS (rdOf w) (rtOf w))
  | 54 => .ok (.cOleS (rdOf w) (rtOf w))
  | 55 => .ok (.cUleS (rdOf w) (rtOf w))
  | 56 => .ok (.cSfS (rdOf w) (rtOf w))
  | 57 => .ok (.cNgleS (rdOf w) (rtOf w))
  | 58 => .ok (.cSeqS (rdOf w) (rtOf w))
  | 59 => .ok (.cNglS (rdOf w) (rtOf w))
  | 60 => .ok (.cLtS (rdOf w) (rtOf w))
  | 61 => .ok (.cNgeS (rdOf w) (rtOf w))
  | 62 => .ok (.cLeS (rdOf w) (rtOf w))
  | 63 => .ok (.cNgtS (rdOf w) (rtOf w))
  | _ => .error (.unimplementedFpOperation (rsOf w) (functOf w))

/-- COP1 operations with `fmt` = 17 (R173). -/
def decodeFpDouble (w : Word) : Except DecodeError Instr :=
  match (functOf w).toNat with
  | 0 => .ok (.addD (shamtOf w) (rdOf w) (rtOf w))
  | 1 => .ok (.subD (shamtOf w) (rdOf w) (rtOf w))
  | 2 => .ok (.mulD (shamtOf w) (rdOf w) (rtOf w))
  | 3 => .ok (.divD (shamtOf w) (rdOf w) (rtOf w))
  | 5 => .ok (.absD (shamtOf w) (rdOf w))
  | 6 => .ok (.movD (shamtOf w) (rdOf w))
  | 7 => .ok (.negD (shamtOf w) (rdOf w))
  | 32 => .ok (.cvtSD (shamtOf w) (rdOf w))
  | 36 => .ok (.cvtWD (shamtOf w) (rdOf w))
  | 48 => .ok (.cFD (rdOf w) (rtOf w))
  | 49 => .ok (.cUnD (rdOf w) (rtOf w))
  | 50 => .ok (.cEqD (rdOf w) (rtOf w))
  | 51 => .ok (.cUeqD (rdOf w) (rtOf w))
  | 52 => .ok (.cOltD (rdOf w) (rtOf w))
  | 53 => .ok (.cUltD (rdOf w) (rtOf w))
  | 54 => .ok (.cOleD (rdOf w) (rtOf w))
  | 55 => .ok (.cUleD (rdOf w) (rtOf w))
  | 56 => .ok (.cSfD (rdOf w) (rtOf w))
  | 57 => .ok (.cNgleD (rdOf w) (rtOf w))
  | 58 => .ok (.cSeqD (rdOf w) (rtOf w))
  | 59 => .ok (.cNglD (rdOf w) (rtOf w))
  | 60 => .ok (.cLtD (rdOf w) (rtOf w))
  | 61 => .ok (.cNgeD (rdOf w) (rtOf w))
  | 62 => .ok (.cLeD (rdOf w) (rtOf w))
  | 63 => .ok (.cNgtD (rdOf w) (rtOf w))
  | _ => .error (.unimplementedFpOperation (rsOf w) (functOf w))

/-- COP1 operations with `fmt` = 20 (R173). -/
def decodeFpWord (w : Word) : Except DecodeError Instr :=
  match (functOf w).toNat with
  | 32 => .ok (.cvtSW (shamtOf w) (rdOf w))
  | 33 => .ok (.cvtDW (shamtOf w) (rdOf w))
  | _ => .error (.unimplementedFpOperation (rsOf w) (functOf w))

/-- COP1 (R171, R173). -/
def decodeCop1 (w : Word) : Except DecodeError Instr :=
  match (rsOf w).toNat with
  | 0 => .ok (.mfc1 (rtOf w) (rdOf w))
  | 2 => .ok (.cfc1 (rtOf w) (rdOf w))
  | 4 => .ok (.mtc1 (rtOf w) (rdOf w))
  | 6 => .ok (.ctc1 (rtOf w) (rdOf w))
  | 8 =>
    match (rtOf w).toNat with
    | 0 => .ok (.bc1f (immOf w))
    | 1 => .ok (.bc1t (immOf w))
    | _ => .error (.reservedCopMove 1 (rsOf w) (rtOf w))
  | 16 => decodeFpSingle w
  | 17 => decodeFpDouble w
  | 20 => decodeFpWord w
  | n => if n < 16 then .error (.reservedCopMove 1 (rsOf w) (rtOf w)) else .error (.unimplementedFpOperation (rsOf w) (functOf w))

/-- COP2 (R171, R174). -/
def decodeCop2 (w : Word) : Except DecodeError Instr :=
  match (rsOf w).toNat with
  | 0 => .ok (.mfc2 (rtOf w) (rdOf w))
  | 2 => .ok (.cfc2 (rtOf w) (rdOf w))
  | 4 => .ok (.mtc2 (rtOf w) (rdOf w))
  | 6 => .ok (.ctc2 (rtOf w) (rdOf w))
  | 8 =>
    match (rtOf w).toNat with
    | 0 => .ok (.bc2f (immOf w))
    | 1 => .ok (.bc2t (immOf w))
    | _ => .error (.reservedCopMove 2 (rsOf w) (rtOf w))
  | n => if n < 16 then .error (.reservedCopMove 2 (rsOf w) (rtOf w)) else .ok (.cop2 (cofunOf w))

/-- COP3 (R171, R174). -/
def decodeCop3 (w : Word) : Except DecodeError Instr :=
  match (rsOf w).toNat with
  | 0 => .ok (.mfc3 (rtOf w) (rdOf w))
  | 2 => .ok (.cfc3 (rtOf w) (rdOf w))
  | 4 => .ok (.mtc3 (rtOf w) (rdOf w))
  | 6 => .ok (.ctc3 (rtOf w) (rdOf w))
  | 8 =>
    match (rtOf w).toNat with
    | 0 => .ok (.bc3f (immOf w))
    | 1 => .ok (.bc3t (immOf w))
    | _ => .error (.reservedCopMove 3 (rsOf w) (rtOf w))
  | n => if n < 16 then .error (.reservedCopMove 3 (rsOf w) (rtOf w)) else .ok (.cop3 (cofunOf w))

/-- The major opcode map (R168). -/
def decodeWord (w : Word) : Except DecodeError Instr :=
  match (opOf w).toNat with
  | 0 => decodeSpecial w
  | 1 => decodeRegimm w
  | 2 => .ok (.j (targetOf w))
  | 3 => .ok (.jal (targetOf w))
  | 4 => .ok (.beq (rsOf w) (rtOf w) (immOf w))
  | 5 => .ok (.bne (rsOf w) (rtOf w) (immOf w))
  | 6 => .ok (.blez (rsOf w) (immOf w))
  | 7 => .ok (.bgtz (rsOf w) (immOf w))
  | 8 => .ok (.addi (rtOf w) (rsOf w) (immOf w))
  | 9 => .ok (.addiu (rtOf w) (rsOf w) (immOf w))
  | 10 => .ok (.slti (rtOf w) (rsOf w) (immOf w))
  | 11 => .ok (.sltiu (rtOf w) (rsOf w) (immOf w))
  | 12 => .ok (.andi (rtOf w) (rsOf w) (immOf w))
  | 13 => .ok (.ori (rtOf w) (rsOf w) (immOf w))
  | 14 => .ok (.xori (rtOf w) (rsOf w) (immOf w))
  | 15 => .ok (.lui (rtOf w) (immOf w))
  | 16 => decodeCop0 w
  | 17 => decodeCop1 w
  | 18 => decodeCop2 w
  | 19 => decodeCop3 w
  | 32 => .ok (.lb (rtOf w) (immOf w) (rsOf w))
  | 33 => .ok (.lh (rtOf w) (immOf w) (rsOf w))
  | 34 => .ok (.lwl (rtOf w) (immOf w) (rsOf w))
  | 35 => .ok (.lw (rtOf w) (immOf w) (rsOf w))
  | 36 => .ok (.lbu (rtOf w) (immOf w) (rsOf w))
  | 37 => .ok (.lhu (rtOf w) (immOf w) (rsOf w))
  | 38 => .ok (.lwr (rtOf w) (immOf w) (rsOf w))
  | 40 => .ok (.sb (rtOf w) (immOf w) (rsOf w))
  | 41 => .ok (.sh (rtOf w) (immOf w) (rsOf w))
  | 42 => .ok (.swl (rtOf w) (immOf w) (rsOf w))
  | 43 => .ok (.sw (rtOf w) (immOf w) (rsOf w))
  | 46 => .ok (.swr (rtOf w) (immOf w) (rsOf w))
  | 48 => .ok (.lwc0 (rtOf w) (immOf w) (rsOf w))
  | 49 => .ok (.lwc1 (rtOf w) (immOf w) (rsOf w))
  | 50 => .ok (.lwc2 (rtOf w) (immOf w) (rsOf w))
  | 51 => .ok (.lwc3 (rtOf w) (immOf w) (rsOf w))
  | 56 => .ok (.swc0 (rtOf w) (immOf w) (rsOf w))
  | 57 => .ok (.swc1 (rtOf w) (immOf w) (rsOf w))
  | 58 => .ok (.swc2 (rtOf w) (immOf w) (rsOf w))
  | 59 => .ok (.swc3 (rtOf w) (immOf w) (rsOf w))
  | _ => .error (.reservedOpcode (opOf w))

/-! ## Words and bytes (20_memory.md R102, R104) -/

/-- The word made of the four bytes at rising addresses. -/
def wordOfBytes (bigEndian : Bool) (b0 b1 b2 b3 : Byte) : Word :=
  if bigEndian then b0 ++ b1 ++ b2 ++ b3 else b3 ++ b2 ++ b1 ++ b0

/-- Byte `k` (0 to 3) of a word at rising addresses. -/
def byteOfWord (bigEndian : Bool) (w : Word) (k : Nat) : Byte :=
  w.extractLsb' (8 * (if bigEndian then 3 - k else k)) 8

/-- The bytes a word is stored as. -/
def bytesOfWord (bigEndian : Bool) (w : Word) : List Byte :=
  [byteOfWord bigEndian w 0, byteOfWord bigEndian w 1, byteOfWord bigEndian w 2, byteOfWord bigEndian w 3]

/-- One instruction from the front of a list of bytes, and the bytes after it. -/
def decodeBytes (bigEndian : Bool) : List Byte → Except DecodeError (Instr × List Byte)
  | b0 :: b1 :: b2 :: b3 :: rest =>
    match decodeWord (wordOfBytes bigEndian b0 b1 b2 b3) with
    | .ok i => .ok (i, rest)
    | .error e => .error e
  | _ => .error .truncated

/-- The instruction read from an instruction of `nbits` bits `w`, laid out in a big-endian memory. -/
def decodeTableWord (nbits w : Nat) : Option Instr :=
  match decodeBytes true (bytesOfWord true (BitVec.ofNat 32 (w % 2 ^ nbits))) with
  | .ok (i, _) => some i
  | .error _ => none

/-! ## The encoder -/

/-- R-type (R161). -/
def rType (op : BitVec 6) (rs rt rd shamt : BitVec 5) (funct : BitVec 6) : Word :=
  op ++ rs ++ rt ++ rd ++ shamt ++ funct

/-- I-type (R161). -/
def iType (op : BitVec 6) (rs rt : BitVec 5) (imm : BitVec 16) : Word := op ++ rs ++ rt ++ imm

/-- J-type (R161). -/
def jType (op : BitVec 6) (target : BitVec 26) : Word := op ++ target

/-- `syscall` and `break` (R176). -/
def codeType (code : BitVec 20) (funct : BitVec 6) : Word := 0#6 ++ code ++ funct

/-- `COPz cofun` (R171). -/
def copType (op : BitVec 6) (cofun : BitVec 25) : Word := op ++ 1#1 ++ cofun

/-- The word of an instruction; the fields R166 asks to be zero are zero. -/
def encode : Instr → Word
  | .sll rd rt shamt => rType 0 0 rt rd shamt 0
  | .srl rd rt shamt => rType 0 0 rt rd shamt 2
  | .sra rd rt shamt => rType 0 0 rt rd shamt 3
  | .sllv rd rt rs => rType 0 rs rt rd 0 4
  | .srlv rd rt rs => rType 0 rs rt rd 0 6
  | .srav rd rt rs => rType 0 rs rt rd 0 7
  | .jr rs => rType 0 rs 0 0 0 8
  | .jalr rd rs => rType 0 rs 0 rd 0 9
  | .syscall code => codeType code 12
  | .break_ code => codeType code 13
  | .mfhi rd => rType 0 0 0 rd 0 16
  | .mthi rs => rType 0 rs 0 0 0 17
  | .mflo rd => rType 0 0 0 rd 0 18
  | .mtlo rs => rType 0 rs 0 0 0 19
  | .mult rs rt => rType 0 rs rt 0 0 24
  | .multu rs rt => rType 0 rs rt 0 0 25
  | .div rs rt => rType 0 rs rt 0 0 26
  | .divu rs rt => rType 0 rs rt 0 0 27
  | .add rd rs rt => rType 0 rs rt rd 0 32
  | .addu rd rs rt => rType 0 rs rt rd 0 33
  | .sub rd rs rt => rType 0 rs rt rd 0 34
  | .subu rd rs rt => rType 0 rs rt rd 0 35
  | .and rd rs rt => rType 0 rs rt rd 0 36
  | .or rd rs rt => rType 0 rs rt rd 0 37
  | .xor rd rs rt => rType 0 rs rt rd 0 38
  | .nor rd rs rt => rType 0 rs rt rd 0 39
  | .slt rd rs rt => rType 0 rs rt rd 0 42
  | .sltu rd rs rt => rType 0 rs rt rd 0 43
  | .bltz rs offset => iType 1 rs 0 offset
  | .bgez rs offset => iType 1 rs 1 offset
  | .bltzal rs offset => iType 1 rs 16 offset
  | .bgezal rs offset => iType 1 rs 17 offset
  | .j target => jType 2 target
  | .jal target => jType 3 target
  | .beq rs rt offset => iType 4 rs rt offset
  | .bne rs rt offset => iType 5 rs rt offset
  | .blez rs offset => iType 6 rs 0 offset
  | .bgtz rs offset => iType 7 rs 0 offset
  | .addi rt rs imm => iType 8 rs rt imm
  | .addiu rt rs imm => iType 9 rs rt imm
  | .slti rt rs imm => iType 10 rs rt imm
  | .sltiu rt rs imm => iType 11 rs rt imm
  | .andi rt rs imm => iType 12 rs rt imm
  | .ori rt rs imm => iType 13 rs rt imm
  | .xori rt rs imm => iType 14 rs rt imm
  | .lui rt imm => iType 15 0 rt imm
  | .lb rt offset base => iType 32 base rt offset
  | .lh rt offset base => iType 33 base rt offset
  | .lwl rt offset base => iType 34 base rt offset
  | .lw rt offset base => iType 35 base rt offset
  | .lbu rt offset base => iType 36 base rt offset
  | .lhu rt offset base => iType 37 base rt offset
  | .lwr rt offset base => iType 38 base rt offset
  | .sb rt offset base => iType 40 base rt offset
  | .sh rt offset base => iType 41 base rt offset
  | .swl rt offset base => iType 42 base rt offset
  | .sw rt offset base => iType 43 base rt offset
  | .swr rt offset base => iType 46 base rt offset
  | .mfc0 rt rd => rType 16 0 rt rd 0 0
  | .mtc0 rt rd => rType 16 4 rt rd 0 0
  | .cfc0 rt rd => rType 16 2 rt rd 0 0
  | .ctc0 rt rd => rType 16 6 rt rd 0 0
  | .tlbr => rType 16 16 0 0 0 1
  | .tlbwi => rType 16 16 0 0 0 2
  | .tlbwr => rType 16 16 0 0 0 6
  | .tlbp => rType 16 16 0 0 0 8
  | .rfe => rType 16 16 0 0 0 16
  | .bc0f offset => iType 16 8 0 offset
  | .bc0t offset => iType 16 8 1 offset
  | .bc1f offset => iType 17 8 0 offset
  | .bc1t offset => iType 17 8 1 offset
  | .bc2f offset => iType 18 8 0 offset
  | .bc2t offset => iType 18 8 1 offset
  | .bc3f offset => iType 19 8 0 offset
  | .bc3t offset => iType 19 8 1 offset
  | .mfc2 rt rd => rType 18 0 rt rd 0 0
  | .cfc2 rt rd => rType 18 2 rt rd 0 0
  | .mtc2 rt rd => rType 18 4 rt rd 0 0
  | .ctc2 rt rd => rType 18 6 rt rd 0 0
  | .cop2 cofun => copType 18 cofun
  | .mfc3 rt rd => rType 19 0 rt rd 0 0
  | .cfc3 rt rd => rType 19 2 rt rd 0 0
  | .mtc3 rt rd => rType 19 4 rt rd 0 0
  | .ctc3 rt rd => rType 19 6 rt rd 0 0
  | .cop3 cofun => copType 19 cofun
  | .mfc1 rt fs => rType 17 0 rt fs 0 0
  | .cfc1 rt fs => rType 17 2 rt fs 0 0
  | .mtc1 rt fs => rType 17 4 rt fs 0 0
  | .ctc1 rt fs => rType 17 6 rt fs 0 0
  | .lwc0 rt offset base => iType 48 base rt offset
  | .swc0 rt offset base => iType 56 base rt offset
  | .lwc1 ft offset base => iType 49 base ft offset
  | .swc1 ft offset base => iType 57 base ft offset
  | .lwc2 rt offset base => iType 50 base rt offset
  | .lwc3 rt offset base => iType 51 base rt offset
  | .swc2 rt offset base => iType 58 base rt offset
  | .swc3 rt offset base => iType 59 base rt offset
  | .addS fd fs ft => rType 17 16 ft fs fd 0
  | .addD fd fs ft => rType 17 17 ft fs fd 0
  | .subS fd fs ft => rType 17 16 ft fs fd 1
  | .subD fd fs ft => rType 17 17 ft fs fd 1
  | .mulS fd fs ft => rType 17 16 ft fs fd 2
  | .mulD fd fs ft => rType 17 17 ft fs fd 2
  | .divS fd fs ft => rType 17 16 ft fs fd 3
  | .divD fd fs ft => rType 17 17 ft fs fd 3
  | .absS fd fs => rType 17 16 0 fs fd 5
  | .absD fd fs => rType 17 17 0 fs fd 5
  | .negS fd fs => rType 17 16 0 fs fd 7
  | .negD fd fs => rType 17 17 0 fs fd 7
  | .movS fd fs => rType 17 16 0 fs fd 6
  | .movD fd fs => rType 17 17 0 fs fd 6
  | .cvtSD fd fs => rType 17 17 0 fs fd 32
  | .cvtSW fd fs => rType 17 20 0 fs fd 32
  | .cvtDS fd fs => rType 17 16 0 fs fd 33
  | .cvtDW fd fs => rType 17 20 0 fs fd 33
  | .cvtWS fd fs => rType 17 16 0 fs fd 36
  | .cvtWD fd fs => rType 17 17 0 fs fd 36
  | .cFS fs ft => rType 17 16 ft fs 0 48
  | .cFD fs ft => rType 17 17 ft fs 0 48
  | .cUnS fs ft => rType 17 16 ft fs 0 49
  | .cUnD fs ft => rType 17 17 ft fs 0 49
  | .cEqS fs ft => rType 17 16 ft fs 0 50
  | .cEqD fs ft => rType 17 17 ft fs 0 50
  | .cUeqS fs ft => rType 17 16 ft fs 0 51
  | .cUeqD fs ft => rType 17 17 ft fs 0 51
  | .cOltS fs ft => rType 17 16 ft fs 0 52
  | .cOltD fs ft => rType 17 17 ft fs 0 52
  | .cUltS fs ft => rType 17 16 ft fs 0 53
  | .cUltD fs ft => rType 17 17 ft fs 0 53
  | .cOleS fs ft => rType 17 16 ft fs 0 54
  | .cOleD fs ft => rType 17 17 ft fs 0 54
  | .cUleS fs ft => rType 17 16 ft fs 0 55
  | .cUleD fs ft => rType 17 17 ft fs 0 55
  | .cSfS fs ft => rType 17 16 ft fs 0 56
  | .cSfD fs ft => rType 17 17 ft fs 0 56
  | .cNgleS fs ft => rType 17 16 ft fs 0 57
  | .cNgleD fs ft => rType 17 17 ft fs 0 57
  | .cSeqS fs ft => rType 17 16 ft fs 0 58
  | .cSeqD fs ft => rType 17 17 ft fs 0 58
  | .cNglS fs ft => rType 17 16 ft fs 0 59
  | .cNglD fs ft => rType 17 17 ft fs 0 59
  | .cLtS fs ft => rType 17 16 ft fs 0 60
  | .cLtD fs ft => rType 17 17 ft fs 0 60
  | .cNgeS fs ft => rType 17 16 ft fs 0 61
  | .cNgeD fs ft => rType 17 17 ft fs 0 61
  | .cLeS fs ft => rType 17 16 ft fs 0 62
  | .cLeD fs ft => rType 17 17 ft fs 0 62
  | .cNgtS fs ft => rType 17 16 ft fs 0 63
  | .cNgtD fs ft => rType 17 17 ft fs 0 63

/-! ## The opcode table -/

/-- A row of spec/opcode_table.json: a word is of the row when its bits under `mask` are `value`. -/
structure OpcodeRow where
  mask : Word
  value : Word
  deriving DecidableEq, Repr

/-- The table's row of an instruction. -/
def opcodeRow : Instr → OpcodeRow
  | .sll _ _ _ => ⟨0xFC00003F, 0x00000000⟩
  | .srl _ _ _ => ⟨0xFC00003F, 0x00000002⟩
  | .sra _ _ _ => ⟨0xFC00003F, 0x00000003⟩
  | .sllv _ _ _ => ⟨0xFC00003F, 0x00000004⟩
  | .srlv _ _ _ => ⟨0xFC00003F, 0x00000006⟩
  | .srav _ _ _ => ⟨0xFC00003F, 0x00000007⟩
  | .jr _ => ⟨0xFC00003F, 0x00000008⟩
  | .jalr _ _ => ⟨0xFC00003F, 0x00000009⟩
  | .syscall _ => ⟨0xFC00003F, 0x0000000C⟩
  | .break_ _ => ⟨0xFC00003F, 0x0000000D⟩
  | .mfhi _ => ⟨0xFC00003F, 0x00000010⟩
  | .mthi _ => ⟨0xFC00003F, 0x00000011⟩
  | .mflo _ => ⟨0xFC00003F, 0x00000012⟩
  | .mtlo _ => ⟨0xFC00003F, 0x00000013⟩
  | .mult _ _ => ⟨0xFC00003F, 0x00000018⟩
  | .multu _ _ => ⟨0xFC00003F, 0x00000019⟩
  | .div _ _ => ⟨0xFC00003F, 0x0000001A⟩
  | .divu _ _ => ⟨0xFC00003F, 0x0000001B⟩
  | .add _ _ _ => ⟨0xFC00003F, 0x00000020⟩
  | .addu _ _ _ => ⟨0xFC00003F, 0x00000021⟩
  | .sub _ _ _ => ⟨0xFC00003F, 0x00000022⟩
  | .subu _ _ _ => ⟨0xFC00003F, 0x00000023⟩
  | .and _ _ _ => ⟨0xFC00003F, 0x00000024⟩
  | .or _ _ _ => ⟨0xFC00003F, 0x00000025⟩
  | .xor _ _ _ => ⟨0xFC00003F, 0x00000026⟩
  | .nor _ _ _ => ⟨0xFC00003F, 0x00000027⟩
  | .slt _ _ _ => ⟨0xFC00003F, 0x0000002A⟩
  | .sltu _ _ _ => ⟨0xFC00003F, 0x0000002B⟩
  | .bltz _ _ => ⟨0xFC1F0000, 0x04000000⟩
  | .bgez _ _ => ⟨0xFC1F0000, 0x04010000⟩
  | .bltzal _ _ => ⟨0xFC1F0000, 0x04100000⟩
  | .bgezal _ _ => ⟨0xFC1F0000, 0x04110000⟩
  | .j _ => ⟨0xFC000000, 0x08000000⟩
  | .jal _ => ⟨0xFC000000, 0x0C000000⟩
  | .beq _ _ _ => ⟨0xFC000000, 0x10000000⟩
  | .bne _ _ _ => ⟨0xFC000000, 0x14000000⟩
  | .blez _ _ => ⟨0xFC000000, 0x18000000⟩
  | .bgtz _ _ => ⟨0xFC000000, 0x1C000000⟩
  | .addi _ _ _ => ⟨0xFC000000, 0x20000000⟩
  | .addiu _ _ _ => ⟨0xFC000000, 0x24000000⟩
  | .slti _ _ _ => ⟨0xFC000000, 0x28000000⟩
  | .sltiu _ _ _ => ⟨0xFC000000, 0x2C000000⟩
  | .andi _ _ _ => ⟨0xFC000000, 0x30000000⟩
  | .ori _ _ _ => ⟨0xFC000000, 0x34000000⟩
  | .xori _ _ _ => ⟨0xFC000000, 0x38000000⟩
  | .lui _ _ => ⟨0xFC000000, 0x3C000000⟩
  | .lb _ _ _ => ⟨0xFC000000, 0x80000000⟩
  | .lh _ _ _ => ⟨0xFC000000, 0x84000000⟩
  | .lwl _ _ _ => ⟨0xFC000000, 0x88000000⟩
  | .lw _ _ _ => ⟨0xFC000000, 0x8C000000⟩
  | .lbu _ _ _ => ⟨0xFC000000, 0x90000000⟩
  | .lhu _ _ _ => ⟨0xFC000000, 0x94000000⟩
  | .lwr _ _ _ => ⟨0xFC000000, 0x98000000⟩
  | .sb _ _ _ => ⟨0xFC000000, 0xA0000000⟩
  | .sh _ _ _ => ⟨0xFC000000, 0xA4000000⟩
  | .swl _ _ _ => ⟨0xFC000000, 0xA8000000⟩
  | .sw _ _ _ => ⟨0xFC000000, 0xAC000000⟩
  | .swr _ _ _ => ⟨0xFC000000, 0xB8000000⟩
  | .mfc0 _ _ => ⟨0xFFE00000, 0x40000000⟩
  | .mtc0 _ _ => ⟨0xFFE00000, 0x40800000⟩
  | .cfc0 _ _ => ⟨0xFFE00000, 0x40400000⟩
  | .ctc0 _ _ => ⟨0xFFE00000, 0x40C00000⟩
  | .tlbr => ⟨0xFE00003F, 0x42000001⟩
  | .tlbwi => ⟨0xFE00003F, 0x42000002⟩
  | .tlbwr => ⟨0xFE00003F, 0x42000006⟩
  | .tlbp => ⟨0xFE00003F, 0x42000008⟩
  | .rfe => ⟨0xFE00003F, 0x42000010⟩
  | .bc0f _ => ⟨0xFFFF0000, 0x41000000⟩
  | .bc0t _ => ⟨0xFFFF0000, 0x41010000⟩
  | .bc1f _ => ⟨0xFFFF0000, 0x45000000⟩
  | .bc1t _ => ⟨0xFFFF0000, 0x45010000⟩
  | .bc2f _ => ⟨0xFFFF0000, 0x49000000⟩
  | .bc2t _ => ⟨0xFFFF0000, 0x49010000⟩
  | .bc3f _ => ⟨0xFFFF0000, 0x4D000000⟩
  | .bc3t _ => ⟨0xFFFF0000, 0x4D010000⟩
  | .mfc2 _ _ => ⟨0xFFE00000, 0x48000000⟩
  | .cfc2 _ _ => ⟨0xFFE00000, 0x48400000⟩
  | .mtc2 _ _ => ⟨0xFFE00000, 0x48800000⟩
  | .ctc2 _ _ => ⟨0xFFE00000, 0x48C00000⟩
  | .cop2 _ => ⟨0xFE000000, 0x4A000000⟩
  | .mfc3 _ _ => ⟨0xFFE00000, 0x4C000000⟩
  | .cfc3 _ _ => ⟨0xFFE00000, 0x4C400000⟩
  | .mtc3 _ _ => ⟨0xFFE00000, 0x4C800000⟩
  | .ctc3 _ _ => ⟨0xFFE00000, 0x4CC00000⟩
  | .cop3 _ => ⟨0xFE000000, 0x4E000000⟩
  | .mfc1 _ _ => ⟨0xFFE00000, 0x44000000⟩
  | .cfc1 _ _ => ⟨0xFFE00000, 0x44400000⟩
  | .mtc1 _ _ => ⟨0xFFE00000, 0x44800000⟩
  | .ctc1 _ _ => ⟨0xFFE00000, 0x44C00000⟩
  | .lwc0 _ _ _ => ⟨0xFC000000, 0xC0000000⟩
  | .swc0 _ _ _ => ⟨0xFC000000, 0xE0000000⟩
  | .lwc1 _ _ _ => ⟨0xFC000000, 0xC4000000⟩
  | .swc1 _ _ _ => ⟨0xFC000000, 0xE4000000⟩
  | .lwc2 _ _ _ => ⟨0xFC000000, 0xC8000000⟩
  | .lwc3 _ _ _ => ⟨0xFC000000, 0xCC000000⟩
  | .swc2 _ _ _ => ⟨0xFC000000, 0xE8000000⟩
  | .swc3 _ _ _ => ⟨0xFC000000, 0xEC000000⟩
  | .addS _ _ _ => ⟨0xFFE0003F, 0x46000000⟩
  | .addD _ _ _ => ⟨0xFFE0003F, 0x46200000⟩
  | .subS _ _ _ => ⟨0xFFE0003F, 0x46000001⟩
  | .subD _ _ _ => ⟨0xFFE0003F, 0x46200001⟩
  | .mulS _ _ _ => ⟨0xFFE0003F, 0x46000002⟩
  | .mulD _ _ _ => ⟨0xFFE0003F, 0x46200002⟩
  | .divS _ _ _ => ⟨0xFFE0003F, 0x46000003⟩
  | .divD _ _ _ => ⟨0xFFE0003F, 0x46200003⟩
  | .absS _ _ => ⟨0xFFE0003F, 0x46000005⟩
  | .absD _ _ => ⟨0xFFE0003F, 0x46200005⟩
  | .negS _ _ => ⟨0xFFE0003F, 0x46000007⟩
  | .negD _ _ => ⟨0xFFE0003F, 0x46200007⟩
  | .movS _ _ => ⟨0xFFE0003F, 0x46000006⟩
  | .movD _ _ => ⟨0xFFE0003F, 0x46200006⟩
  | .cvtSD _ _ => ⟨0xFFE0003F, 0x46200020⟩
  | .cvtSW _ _ => ⟨0xFFE0003F, 0x46800020⟩
  | .cvtDS _ _ => ⟨0xFFE0003F, 0x46000021⟩
  | .cvtDW _ _ => ⟨0xFFE0003F, 0x46800021⟩
  | .cvtWS _ _ => ⟨0xFFE0003F, 0x46000024⟩
  | .cvtWD _ _ => ⟨0xFFE0003F, 0x46200024⟩
  | .cFS _ _ => ⟨0xFFE0003F, 0x46000030⟩
  | .cFD _ _ => ⟨0xFFE0003F, 0x46200030⟩
  | .cUnS _ _ => ⟨0xFFE0003F, 0x46000031⟩
  | .cUnD _ _ => ⟨0xFFE0003F, 0x46200031⟩
  | .cEqS _ _ => ⟨0xFFE0003F, 0x46000032⟩
  | .cEqD _ _ => ⟨0xFFE0003F, 0x46200032⟩
  | .cUeqS _ _ => ⟨0xFFE0003F, 0x46000033⟩
  | .cUeqD _ _ => ⟨0xFFE0003F, 0x46200033⟩
  | .cOltS _ _ => ⟨0xFFE0003F, 0x46000034⟩
  | .cOltD _ _ => ⟨0xFFE0003F, 0x46200034⟩
  | .cUltS _ _ => ⟨0xFFE0003F, 0x46000035⟩
  | .cUltD _ _ => ⟨0xFFE0003F, 0x46200035⟩
  | .cOleS _ _ => ⟨0xFFE0003F, 0x46000036⟩
  | .cOleD _ _ => ⟨0xFFE0003F, 0x46200036⟩
  | .cUleS _ _ => ⟨0xFFE0003F, 0x46000037⟩
  | .cUleD _ _ => ⟨0xFFE0003F, 0x46200037⟩
  | .cSfS _ _ => ⟨0xFFE0003F, 0x46000038⟩
  | .cSfD _ _ => ⟨0xFFE0003F, 0x46200038⟩
  | .cNgleS _ _ => ⟨0xFFE0003F, 0x46000039⟩
  | .cNgleD _ _ => ⟨0xFFE0003F, 0x46200039⟩
  | .cSeqS _ _ => ⟨0xFFE0003F, 0x4600003A⟩
  | .cSeqD _ _ => ⟨0xFFE0003F, 0x4620003A⟩
  | .cNglS _ _ => ⟨0xFFE0003F, 0x4600003B⟩
  | .cNglD _ _ => ⟨0xFFE0003F, 0x4620003B⟩
  | .cLtS _ _ => ⟨0xFFE0003F, 0x4600003C⟩
  | .cLtD _ _ => ⟨0xFFE0003F, 0x4620003C⟩
  | .cNgeS _ _ => ⟨0xFFE0003F, 0x4600003D⟩
  | .cNgeD _ _ => ⟨0xFFE0003F, 0x4620003D⟩
  | .cLeS _ _ => ⟨0xFFE0003F, 0x4600003E⟩
  | .cLeD _ _ => ⟨0xFFE0003F, 0x4620003E⟩
  | .cNgtS _ _ => ⟨0xFFE0003F, 0x4600003F⟩
  | .cNgtD _ _ => ⟨0xFFE0003F, 0x4620003F⟩

end Sys2Proof
end

