-- ==== Sys2Proof/Config.lean ====
section
/-! DEFINITION. What an implementation fixes for a run (00_scope.md R7) and the values the manual leaves open
(93_implementation_defined.md). The free values have no body: nothing can be proved about what they are. -/

namespace Sys2Proof

/-- The family members (00_scope.md R2). The "E" suffix is `Config.hasMmu`. -/
inductive Member where
  | r3041 | r3051 | r3052 | r3071 | r3081
  deriving DecidableEq, Repr

/-- What answers at a physical address (20_memory.md R108): memory, read-only memory, a device whose reads the
environment chooses, or nothing (the board signals a bus error on a read, R122). -/
inductive RegionKind where
  | ram | rom | device | absent
  deriving DecidableEq, Repr

/-- One region of the board's physical map: `size` bytes from `base`. Reads of it may end with a bus error, by the kind
of read (`BusError(paddr, kind)` of 00_scope.md R7, log entry 10); with nothing there every read does. -/
structure Region where
  base : Nat
  size : Nat
  kind : RegionKind
  failsFetch : Bool
  failsLoad : Bool
  deriving DecidableEq, Repr

/-- The parameters of 00_scope.md R7 and 92_eei_decisions.md, fixed for a run. -/
structure Config where
  member : Member
  /-- `HAS_MMU`: an "E" part. No R3041 has an MMU (R2). -/
  hasMmu : Bool
  /-- `BIG_ENDIAN_MEM`. -/
  bigEndian : Bool
  /-- `BASE_MAPPED_UNCACHED` (D5). -/
  baseMappedUncached : Bool
  /-- `UTLB_ENTRIES` is 2 when true, 1 when false (10_state.md R71). -/
  utlbTwo : Bool
  /-- `PRID_VALUE` (10_state.md R28). -/
  prid : Word
  /-- `FCR0_VALUE` (10_state.md R74). -/
  fcr0 : Word
  /-- `DBREFILL_AT_RESET`: the reset-time input of 10_state.md R58 and 20_memory.md R139. -/
  dbRefillAtReset : Bool
  /-- The board's physical map. An address in no region is RAM. -/
  regions : List Region
  deriving DecidableEq, Repr

namespace Config

/-- `HAS_FPA`: exactly the R3081 and R3081E (R7). -/
def hasFpa (c : Config) : Bool := c.member == .r3081

/-- The parts with the Config register of Figure 3.4 (10_state.md R56). -/
def hasConfig7181 (c : Config) : Bool := c.member == .r3071 || c.member == .r3081

/-- The parts with Count, Compare, BusCtrl, PortSize and the Config register of Figure 3.5 (R8, R62). -/
def is3041 (c : Config) : Bool := c.member == .r3041

/-- The constraints of R1, R2, R7 and of 10_state.md R28 (the R3041's PRId is one value) and R74 on the parameters. -/
def wf (c : Config) : Bool :=
  (c.member != .r3041 || !c.hasMmu)
  && (if c.is3041 then c.prid == 0x00000700 else c.prid.extractLsb' 8 8 == 3)
  && (c.fcr0.extractLsb' 8 24 == (if c.hasFpa then 3 else 0))

/-- The member the reset state describes: an R3081E ("the richest", D3), big-endian, every address RAM
(log entry 1). -/
def standard : Config :=
  { member := .r3081, hasMmu := true, bigEndian := true, baseMappedUncached := false, utlbTwo := true,
    prid := 0x00000300, fcr0 := 0x00000300, dbRefillAtReset := false, regions := [] }

end Config

/-- Where the spec leaves a 32-bit value open. Each use is one independent free value. -/
inductive FreeUse where
  /-- LO and HI after a division by zero (42_muldiv.md R247). -/
  | divLo | divHi
  /-- The companion of an `mthi`/`mtlo` after a multiply or divide (R258). -/
  | companion
  /-- The target of `jalr` with `rs` = `rd` (44_branch_jump.md R317). -/
  | jalrTarget
  /-- Cause.CE and BadVaddr after an exception that does not set them (60_exceptions.md R535). -/
  | causeCe | badVaddr
  /-- Reserved bits read by `mfc0` or left by `mtc0` (10_state.md R27). -/
  | reservedRead | reservedWrite
  /-- A CP0 number the member lacks (D11). -/
  | absentCp0
  /-- EPC or BadVaddr after an `mtc0` to it (D14). -/
  | latchWrite
  /-- The Random register (10_state.md R68). -/
  | random
  /-- The odd half of an FP pair after a single or word result (46_coprocessor_fpa.md R375). -/
  | fpOddHalf
  /-- The pair and the FCR31 fields after an odd specifier (R376, U13). -/
  | fpOddSpecEven | fpOddSpecOdd | fpOddSpecFcr
  /-- FCR31.Cause after a declined or masked exception, and Flags on a trap (R380). -/
  | fcrCause | fcrFlags
  /-- The mixture of old and new FCR31 after `ctc1` (70_reset_and_hazards.md R595). -/
  | fcrMixture
  /-- FCR registers other than 0 and 31 (R428), and FPA moves without an FPA (R372). -/
  | fcrUndefined | noFpa
  /-- Data from coprocessors 2 and 3 (D24). -/
  | coprocessor
  /-- TLB registers after a TLB instruction without a TLB, and Index after a multiple match (U5, U6). -/
  | tlbIndex | tlbHi | tlbLo
  /-- A cached data access with the caches swapped but not isolated: the word loaded (4) and the four words of the
  line left behind (0 to 3) (20_memory.md R146). -/
  | swapped (k : Nat)
  /-- Count read just after an `mtc0` to it (70_reset_and_hazards.md R599). -/
  | count
  /-- Which IP bits the FPA drives when Config.FPInt is 6 or 7 (10_state.md R59). -/
  | fpIntPin
  /-- The register trashed by, and the SR bits left by, a warm reset (70_reset_and_hazards.md R572). -/
  | resetTrash | resetTrashFp | resetSr
  /-- Tag (0) and words (1 to 5) of the cache line a warm reset may trash (R572). -/
  | resetLine (k : Nat)
  deriving DecidableEq, Repr

/-- Where the spec leaves a yes-or-no outcome open. -/
inductive ChoiceUse where
  /-- A register read in its load delay slot sees the old value (R590), or an FP register (R596). -/
  | loadDelay | fprDelay
  /-- Bit `k` of SR is still seen with an earlier value (R597, R599). -/
  | srBit (k : Nat)
  /-- An interrupt is taken inside the window of R598. -/
  | interrupt
  /-- The re-executed `mfhi`/`mflo` sees the new HI/LO (R256): when the writer runs, and at the instruction before it,
  for a writer `ahead` instructions on. -/
  | hiloRead | hiloAhead (ahead : Nat)
  /-- The multiply `ahead` instructions behind an exception's victim has already started (60_exceptions.md R505). -/
  | hiloStarted (ahead : Nat)
  /-- A page first fetched inside a window of R599 or R600 is held by the micro-TLB (20_memory.md R119). -/
  | pageHeld
  /-- The coprocessor condition tested too early (R594), or through a pin that is not there (R63). -/
  | condition
  /-- A TLB entry written `age` instructions ago is still seen as it was (R600). -/
  | tlbView (index : Nat) (age : Nat)
  /-- A CP0 register written `age` instructions ago is still seen as it was (R599, R600). -/
  | cp0View (reg : Reg) (age : Nat)
  /-- IEEE 754 underflow of a tiny result that rounds up to the smallest normal number (R379). -/
  | tininess
  /-- The swapped, not isolated cache line is left valid (R146). -/
  | swappedLine
  /-- The write buffer is lost by a warm reset (D17). -/
  | resetBuffer
  /-- The cache line a warm reset trashed is left valid (R572). -/
  | resetLine (inICache : Bool)
  deriving DecidableEq, Repr

/-- A free 32-bit value: use, then the draw number. -/
opaque Config.freeWord : FreeUse → Nat → Word

/-- A free truth value: use, then the draw number. -/
opaque Config.choice : ChoiceUse → Nat → Bool

/-- What looks at the R3041 timer: an access to its registers, the start of an instruction within a window of
70_reset_and_hazards.md R599, a warm reset. -/
inductive ClockUse where
  | access | window | warmReset
  deriving DecidableEq, Repr

/-- Clocks elapsed since the R3041 timer was last looked at (10_state.md R53, D34): use, then the draw number. -/
opaque Config.clocks : ClockUse → Nat → Nat

/-- What a device answers to a read: draw number, whether it is a fetch, word address (20_memory.md R123). -/
opaque Config.deviceWord : Nat → Bool → Word → Word

/-- `FPA_DECLINES`: instruction word, the two operand values, FCR31 (46_coprocessor_fpa.md R379, D21). -/
opaque Config.fpaDeclines : Word → BitVec 64 → BitVec 64 → Word → Bool

end Sys2Proof
end

