-- ==== Sys2Proof/Machine/State.lean ====
section
/-! DEFINITION. The state of the machine (10_state.md), its stops, and the state after reset (R89). -/

namespace Sys2Proof.Machine

/-- Where the machine has no further meaning. Each stop is safe: the hardware goes on, the model does not. -/
inductive Fault where
  /-- A mapped access while SR.TS is set on a part with the TLB (20_memory.md R118, U5). Raised by translation. Safe. -/
  | tlbShutdown
  /-- A branch or jump executed in a branch delay slot (44_branch_jump.md R301, U4). Raised by the branches. Safe. -/
  | branchInDelaySlot
  /-- A load or store directly after `tlbp` (45_system_cp0_tlb.md R347, U19). Raised by the loads and stores. Safe. -/
  | memRefAfterTlbp
  /-- `rfe` directly after a load or store, where the mode changes (45_system_cp0_tlb.md R341, U19). Raised by `rfe`. Safe. -/
  | memRefBeforeRfe
  deriving DecidableEq, Repr

/-- Why an instruction has no meaning here. -/
inductive Refusal where
  /-- An instruction the model does not give a meaning to. No arm of `exec` raises it. Safe. -/
  | notModelled (mnemonic : String)
  deriving DecidableEq, Repr

/-- One TLB entry, the images of EntryHi and EntryLo (10_state.md R70). -/
structure TlbEntry where
  hi : Word
  lo : Word
  deriving DecidableEq, Repr

/-- A page held in the micro-TLB (10_state.md R71). -/
structure HeldPage where
  vpn : BitVec 20
  pfn : BitVec 20
  noncacheable : Bool
  deriving DecidableEq, Repr

/-- One store waiting for the bus (10_state.md R82): word address, the word in its lanes, byte enables by lane. -/
structure WbEntry where
  addr : Word
  data : Word
  be : BitVec 4
  deriving DecidableEq, Repr

/-- A D-cache line (10_state.md R81). The tag is the physical address above the index. -/
structure DLine where
  valid : Bool
  tag : Nat
  data : Word
  deriving DecidableEq, Repr

/-- An I-cache line: four words under one tag (10_state.md R81). -/
structure ILine where
  valid : Bool
  tag : Nat
  words : Vector Word 4
  deriving DecidableEq, Repr

/-- The coprocessor 0 registers (10_state.md R26). EntryLo and BusCtrl share the number 2, EntryHi and PortSize
the number 10; PRId is in the configuration. -/
structure Cp0 where
  index : Word
  random : BitVec 6
  entryLo : Word
  busCtrl : Word
  config : Word
  context : Word
  badVaddr : Word
  count : BitVec 24
  entryHi : Word
  portSize : Word
  compare : BitVec 24
  sr : Word
  cause : Word
  epc : Word
  /-- The R3041's Tc* output, held in level mode (R55). -/
  tcOut : Bool
  deriving DecidableEq, Repr

/-- The input pins (00_scope.md R7); 1 means asserted. -/
structure Pins where
  int : BitVec 6
  brCond : BitVec 4
  deriving DecidableEq, Repr

/-- What the environment does next (00_scope.md R9 (b), (g); log entry 12). -/
inductive Event where
  /-- One step of the CPU. -/
  | cpu
  /-- The interrupt and condition pins change (60_exceptions.md R521). -/
  | pins (int : BitVec 6) (brCond : BitVec 4)
  /-- The oldest write-buffer entry reaches the bus (20_memory.md R131). -/
  | retire
  /-- A DMA master writes a byte; `coherent` when the board uses `CohReq*` (R141). -/
  | dmaWrite (addr : Word) (data : Byte) (coherent : Bool)
  /-- A parity error in the I-cache or D-cache line: its data are now `data` (R149). -/
  | parityError (inICache : Bool) (index : Nat) (data : Word)
  /-- A warm reset, and the cache lines that were being stored to or refilled (70_reset_and_hazards.md R572). -/
  | reset (dLine iLine : Option Nat)
  deriving DecidableEq, Repr

/-- A general register whose load is pending and the value it had before (10_state.md R87). -/
structure GprLate where
  reg : Reg
  old : Word
  /-- A load of 43_loadstore.md, whose result `lwl` and `lwr` see at once (70_reset_and_hazards.md R590). -/
  isLoad : Bool
  deriving DecidableEq, Repr

/-- An FP register whose load is pending and the value it had before (70_reset_and_hazards.md R596). -/
structure FprLate where
  reg : Reg
  old : Word
  deriving DecidableEq, Repr

/-- A CP0 register written `age` instructions ago and the value it had before (70_reset_and_hazards.md R597-R600): `mfc0`
may still deliver it for `reads` instructions, operations that depend on the register may see it for `acts`. -/
structure Cp0Late where
  reg : Reg
  old : Word
  age : Nat
  reads : Nat
  acts : Nat
  deriving DecidableEq, Repr

/-- A TLB entry written `age` instructions ago and what it held before (70_reset_and_hazards.md R600). -/
structure TlbLate where
  index : BitVec 6
  old : TlbEntry
  age : Nat
  deriving DecidableEq, Repr

/-- An `mfhi` (`isHi`) or `mflo` executed `age` instructions ago: where it wrote and what (42_muldiv.md R256). -/
structure HiLoRead where
  rd : Reg
  isHi : Bool
  value : Word
  age : Nat
  deriving DecidableEq, Repr

/-- What the spec asks to know of the previous instruction (R341, R347). -/
inductive Kind where
  | other | memory | tlbp
  deriving DecidableEq, Repr

/-- Where an exception found the machine: the instruction that was its victim and the one after it, whether the victim was
in a delay slot, and SR. A multiply just behind the victim may already have started (60_exceptions.md R505). -/
structure Aborted where
  pc : Word
  npc : Word
  inDelay : Bool
  sr : Word
  deriving DecidableEq, Repr

/-- The in-flight state a program can observe (10_state.md R85-R87). "Late" is what this instruction leaves
pending, "shadow" what the previous one left. -/
structure Pipe where
  gprLate : Option GprLate
  gprShadow : Option GprLate
  fprLate : Option FprLate
  fprShadow : Option FprLate
  /-- FCR31 before a `ctc1`. -/
  fcrLate : Option Word
  fcrShadow : Option Word
  /-- While positive, the FP condition is not yet settled (70_reset_and_hazards.md R594, R595). -/
  condWin : Nat
  /-- The kind of this instruction and of the previous one. -/
  this : Kind
  prev : Kind
  hiloReads : List HiLoRead
  /-- HI and LO hold a multiply or divide result nothing has read (42_muldiv.md R258). -/
  hiloFresh : Bool
  /-- Until the handler's first instruction begins: the exception just taken. -/
  aborted : Option Aborted
  late : List Cp0Late
  tlbLate : List TlbLate
  deriving DecidableEq, Repr

/-- Nothing in flight. DESIGN CHOICE (log entry 2): so it is after power-up, `hiloFresh` (42_muldiv.md R258) being clear. -/
def Pipe.empty : Pipe :=
  { gprLate := none, gprShadow := none, fprLate := none, fprShadow := none, fcrLate := none, fcrShadow := none,
    condWin := 0, this := .other, prev := .other, hiloReads := [], hiloFresh := false, aborted := none, late := [],
    tlbLate := [] }

/-- The machine. `pc` is the address of the instruction to execute (10_state.md R88). -/
structure State where
  cfg : Config
  gpr : Vector Word 32
  hi : Word
  lo : Word
  pc : Word
  npc : Word
  inDelay : Bool
  cp0 : Cp0
  tlb : Vector TlbEntry 64
  utlb : List HeldPage
  fpr : Vector Word 32
  fcr31 : Word
  mem : List Host.Cell
  wbuf : List WbEntry
  dcache : List (Nat × DLine)
  icache : List (Nat × ILine)
  pins : Pins
  pipe : Pipe
  events : List Event
  /-- The model's own field: the free values of Config are applied to it (log entry 49). -/
  draws : Nat
  deriving DecidableEq, Repr

/-- The reset vector (60_exceptions.md R532). -/
def resetVector : Word := 0xBFC00000

/-- SR after reset: BEV, and TS on a part without the TLB (10_state.md R89); the rest is log entry 3. -/
def resetSr (cfg : Config) : Word := if cfg.hasMmu then 0x00400000 else 0x00600000

/-- Config after reset (10_state.md R57-R62, R89). DESIGN CHOICE (log entry 8): 0 in the fields without a reset value, which
are Slow Bus, RF, AC and the reserved bits 22:0 of the R3071 and R3081, and FDM of the R3041. The R3071's FPInt, which R59
calls reserved, has the 011 of R89's row. The reset-time input sets the R3041's DBR too (00_scope.md R7); with the input
clear, the default, it is the 0 of R62 and R89 (DEDUCED, log entry 8). -/
def resetConfig (cfg : Config) : Word :=
  match cfg.member with
  | .r3041 => if cfg.dbRefillAtReset then 0x60000000 else 0x40000000
  | .r3071 | .r3081 => if cfg.dbRefillAtReset then 0x2C000000 else 0x0C000000
  | .r3051 | .r3052 => 0

/-- BusCtrl after reset (10_state.md R63, log entry 8). -/
def resetBusCtrl : Word := 0x402C2300

/-- Coprocessor 0 after reset (10_state.md R89). -/
def resetCp0 (cfg : Config) : Cp0 :=
  { index := 0, random := 63, entryLo := 0, busCtrl := resetBusCtrl, config := resetConfig cfg, context := 0,
    badVaddr := 0, count := 0, entryHi := 0, portSize := 0, compare := 0xFFFFFF, sr := resetSr cfg, cause := 0,
    epc := 0, tcOut := false }

/-- The machine of a configuration right after power-up (70_reset_and_hazards.md R571). -/
def State.resetOf (cfg : Config) : State :=
  { cfg := cfg, gpr := Vector.replicate 32 0, hi := 0, lo := 0, pc := resetVector, npc := resetVector + 4,
    inDelay := false, cp0 := resetCp0 cfg, tlb := Vector.replicate 64 ⟨0xA0000000, 0⟩, utlb := [],
    fpr := Vector.replicate 32 0, fcr31 := 0, mem := [], wbuf := [], dcache := [], icache := [],
    pins := ⟨0, 0⟩, pipe := Pipe.empty, events := [], draws := 0 }

/-- The machine right after reset. -/
def State.reset : State := State.resetOf Config.standard

end Sys2Proof.Machine
end

