-- ==== Sys2Proof/Machine/Ops.lean ====
section
/-! DEFINITION. The operations every instruction is built from: free values, registers, the program counter, the
delayed views of the hazards, the mode bits, taking an exception and returning from one. -/

namespace Sys2Proof.Machine

/-- How an instruction or a step ends. -/
abbrev Result := Host.Outcome State Fault Refusal

/-! ## Values the spec leaves open -/

/-- A free word of this step. -/
def State.free (s : State) (u : FreeUse) : Word := Config.freeWord u s.draws

/-- A free outcome of this step. -/
def State.choose (s : State) (u : ChoiceUse) : Bool := Config.choice u s.draws

/-- The earlier or the present value, when they differ. -/
def State.oldOrNew (s : State) (u : ChoiceUse) (old new : Word) : Word :=
  if old = new then new else if s.choose u then old else new

/-- The bits of `keep` that `mask` selects, the others from `other`. -/
def mergeBits (mask keep other : Word) : Word := (keep &&& mask) ||| (other &&& ~~~mask)

/-! ## General registers (10_state.md R20, R21) -/

/-- A register's contents; `$0` is zero. -/
def State.gprAt (s : State) (r : Reg) : Word := if r = 0 then 0 else s.gpr[r.toNat]'r.isLt

/-- Write a register; a write to `$0` is discarded. -/
def State.setGpr (s : State) (r : Reg) (v : Word) : State :=
  if r = 0 then s else { s with gpr := s.gpr.set r.toNat v r.isLt }

/-- A register read as a source operand: in the slot of a pending load, the old or the loaded value
(70_reset_and_hazards.md R590, log entry 15). -/
def State.src (s : State) (r : Reg) : Word :=
  match s.pipe.gprShadow with
  | some l => if l.reg = r ∧ r ≠ 0 then s.oldOrNew .loadDelay l.old (s.gprAt r) else s.gprAt r
  | none => s.gprAt r

/-- The register `lwl` and `lwr` merge into: the result of a load just before is seen (R590). -/
def State.mergeSrc (s : State) (r : Reg) : Word :=
  match s.pipe.gprShadow with
  | some l => if l.reg = r ∧ r ≠ 0 ∧ l.isLoad = false then s.oldOrNew .loadDelay l.old (s.gprAt r) else s.gprAt r
  | none => s.gprAt r

/-- The delayed register write `<-d` (43_loadstore.md R263): `isLoad` for the loads, not for the moves. -/
def State.setGprLate (s : State) (r : Reg) (v : Word) (isLoad : Bool) : State :=
  if r = 0 then s
  else { s.setGpr r v with pipe := { s.pipe with gprLate := some ⟨r, s.gprAt r, isLoad⟩ } }

/-! ## Floating-point registers (10_state.md R72) -/

def State.fprAt (s : State) (r : Reg) : Word := s.fpr[r.toNat]'r.isLt

def State.setFpr (s : State) (r : Reg) (v : Word) : State := { s with fpr := s.fpr.set r.toNat v r.isLt }

/-- An FP register read as a source operand (70_reset_and_hazards.md R596). -/
def State.srcFpr (s : State) (r : Reg) : Word :=
  match s.pipe.fprShadow with
  | some l => if l.reg = r then s.oldOrNew .fprDelay l.old (s.fprAt r) else s.fprAt r
  | none => s.fprAt r

/-- The delayed FP register write of `lwc1` and `mtc1` (R596). -/
def State.setFprLate (s : State) (r : Reg) (v : Word) : State :=
  { s.setFpr r v with pipe := { s.pipe with fprLate := some ⟨r, s.fprAt r⟩ } }

/-- FCR31 as the instruction after a `ctc1` sees it (R595, log entry 39). -/
def State.fcrView (s : State) : Word :=
  match s.pipe.fcrShadow with
  | some old => if old = s.fcr31 then s.fcr31 else mergeBits (s.free .fcrMixture) s.fcr31 old
  | none => s.fcr31

/-! ## The program counter (10_state.md R88, 44_branch_jump.md R300) -/

/-- Go on to the next instruction. -/
def State.advance (s : State) : State := { s with pc := s.npc, npc := s.npc + 4, inDelay := false }

/-- The instruction ends and the machine goes on. -/
def done (s : State) : Result := .next s.advance

/-- A branch or jump: the next instruction is its delay slot, taken or not; in a delay slot itself it has no
meaning (R301). -/
def branchTo (s : State) (taken : Bool) (target : Word) : Result :=
  if s.inDelay then .fault .branchInDelaySlot
  else .next { s with pc := s.npc, npc := if taken then target else s.npc + 4, inDelay := true }

/-- The return address of the linking instructions (R303). -/
def State.link (s : State) : Word := s.pc + 8

/-! ## CP0 registers inside the windows of 70_reset_and_hazards.md R597-R600 -/

/-- The earlier values of a CP0 register that an operation with a window of `n` instructions may still see, newest
first. -/
def State.recent (s : State) (r : Reg) (n : Nat) : List Cp0Late :=
  s.pipe.late.filter fun l => l.reg == r && decide (l.age ≤ n) && decide (l.age ≤ l.acts)

/-- `cur` or one of the earlier values. -/
def State.oneOf (s : State) (r : Reg) (earlier : List Cp0Late) (cur : Word) : Word :=
  earlier.foldl (fun v l => s.oldOrNew (.cp0View r l.age) l.old v) cur

/-- A CP0 register as an operation with a window of `n` instructions sees it: now `cur`, or an earlier value. -/
def State.cp0View (s : State) (r : Reg) (n : Nat) (cur : Word) : Word := s.oneOf r (s.recent r n) cur

/-- A CP0 register as `mfc0` sees it: now `cur`, or an earlier value (70_reset_and_hazards.md R599, R600). -/
def State.cp0ReadBack (s : State) (r : Reg) (cur : Word) : Word :=
  s.oneOf r (s.pipe.late.filter fun l => l.reg == r && decide (l.age ≤ l.reads)) cur

/-- Remember the earlier value of a CP0 register, for `reads` and `acts` instructions. -/
def State.noteCp0 (s : State) (r : Reg) (old : Word) (reads acts : Nat) : State :=
  { s with pipe := { s.pipe with late := ⟨r, old, 0, reads, acts⟩ :: s.pipe.late } }

/-- Bit `k` of SR as seen through a window of `n` instructions. -/
def State.srBit (s : State) (n k : Nat) : Bool :=
  if (s.recent 12 n).all (fun l => l.old.getLsbD k == s.cp0.sr.getLsbD k) then s.cp0.sr.getLsbD k
  else s.choose (.srBit k)

/-- SR.KUc, the processor mode (10_state.md R42): user mode when set. -/
def State.userMode (s : State) : Bool := s.srBit 3 1

/-- SR.IsC (R40). -/
def State.isolated (s : State) : Bool := s.srBit 3 16

/-- SR.SwC (R39). -/
def State.swapped (s : State) : Bool := s.srBit 3 17

/-- SR.BEV (R34). -/
def State.bootVectors (s : State) : Bool := s.srBit 3 22

/-- `BigEndianCPU`: memory's byte order, reversed in user mode with SR.RE (20_memory.md R103). -/
def State.bigEndianCpu (s : State) : Bool := xor s.cfg.bigEndian (s.srBit 3 25 && s.userMode)

/-- `usable(z)` (45_system_cp0_tlb.md R352), inside the window of R597 either way. -/
def State.usable (s : State) (z : BitVec 2) : Bool :=
  if z = 0 then !s.userMode || s.srBit 2 28 else s.srBit 2 (28 + z.toNat)

/-- Hardware changes SR: the pending views of SR change with it. -/
def State.updateSr (s : State) (f : Word → Word) : State :=
  { s with
    cp0 := { s.cp0 with sr := f s.cp0.sr }
    pipe := { s.pipe with late := s.pipe.late.map fun l => if l.reg = 12 then { l with old := f l.old } else l } }

/-- Set or clear bit `k` of a word. -/
def setBit (w : Word) (k : Nat) (b : Bool) : Word :=
  if b then w ||| (1#32 <<< k) else w &&& ~~~(1#32 <<< k)

/-! ## Exceptions (60_exceptions.md R500, R530-R536) -/

/-- The causes of R500 with what they deliver: the offending address, whether no TLB entry matched, the
coprocessor number. -/
inductive Exc where
  | int
  | mod (va : Word)
  | tlbl (va : Word) (refill : Bool)
  | tlbs (va : Word) (refill : Bool)
  | adel (va : Word)
  | ades (va : Word)
  | ibe
  | dbe
  | sys
  | bp
  | ri
  | cpu (z : BitVec 2)
  | ov
  deriving DecidableEq, Repr

/-- Cause.ExcCode (R500). -/
def Exc.code : Exc → BitVec 5
  | .int => 0
  | .mod _ => 1
  | .tlbl _ _ => 2
  | .tlbs _ _ => 3
  | .adel _ => 4
  | .ades _ => 5
  | .ibe => 6
  | .dbe => 7
  | .sys => 8
  | .bp => 9
  | .ri => 10
  | .cpu _ => 11
  | .ov => 12

/-- The address BadVaddr receives (R512, R513, R534). -/
def Exc.badVaddr : Exc → Option Word
  | .mod va | .tlbl va _ | .tlbs va _ | .adel va | .ades va => some va
  | .int | .ibe | .dbe | .sys | .bp | .ri | .cpu _ | .ov => none

/-- The address of the three TLB causes, which also load Context and EntryHi (R534). -/
def Exc.tlbAddress : Exc → Option Word
  | .mod va | .tlbl va _ | .tlbs va _ => some va
  | .adel _ | .ades _ | .int | .ibe | .dbe | .sys | .bp | .ri | .cpu _ | .ov => none

/-- A TLB refill on a kuseg address, the one event with its own vector (R532). -/
def Exc.isKusegRefill : Exc → Bool
  | .tlbl va refill | .tlbs va refill => refill && !va.msb
  | .mod _ | .adel _ | .ades _ | .int | .ibe | .dbe | .sys | .bp | .ri | .cpu _ | .ov => false

/-- The push of the KU/IE stack: `SR[5:0] <- SR[3:0] || 00` (R531). -/
def pushMode (sr : Word) : Word := mergeBits 0xFFFFFFC0 sr (sr <<< 2)

/-- The pop of the KU/IE stack: `SR[3:0] <- SR[5:2]` (45_system_cp0_tlb.md R341). -/
def popMode (sr : Word) : Word := mergeBits 0xFFFFFFF0 sr (sr >>> 2)

/-- `EntryHi.VPN <- va[31:12]`, ASID unchanged (R534). -/
def setVpn (va entryHi : Word) : Word := mergeBits 0xFFFFF000 va entryHi

/-- `Context.BadVPN <- va[30:12]` (R534, 10_state.md R69). -/
def setBadVpn (va context : Word) : Word := mergeBits 0x001FFFFC (va >>> 10) context

/-- Cause after entry: BD, CE, ExcCode written, the software interrupt bits kept (R530). -/
def causeAfter (cause : Word) (slot : Bool) (ce : BitVec 2) (code : BitVec 5) : Word :=
  (cause &&& 0x300) ||| (if slot then 0x80000000 else 0) ||| (ce.setWidth 32 <<< 28) ||| (code.setWidth 32 <<< 2)

/-- Cause.CE: the coprocessor of a CpU, free after any other cause (10_state.md R47, R535). -/
def State.excCe (s : State) : Exc → BitVec 2
  | .cpu z => z
  | _ => (s.free .causeCe).setWidth 2

/-- The entry point (R532). -/
def State.excVector (s : State) (e : Exc) : Word :=
  (if s.bootVectors then 0xBFC00100 else 0x80000000) + (if e.isKusegRefill then 0 else 0x80)

/-- The CP0 registers after entry (R530, R534, R535). -/
def State.excCp0 (s : State) (e : Exc) : Cp0 :=
  { s.cp0 with
    epc := if s.inDelay then s.pc - 4 else s.pc
    cause := causeAfter s.cp0.cause s.inDelay (s.excCe e) e.code
    badVaddr := e.badVaddr.getD (s.free .badVaddr)
    entryHi := match e.tlbAddress with | some va => setVpn va s.cp0.entryHi | none => s.cp0.entryHi
    context := match e.tlbAddress with | some va => setBadVpn va s.cp0.context | none => s.cp0.context
    sr := pushMode s.cp0.sr }

/-- What entry does to an earlier value still in a window: the registers entry writes are written there too. The SR that is
pushed is the new one, and the handler reads it so (R528, 70_reset_and_hazards.md R598). -/
def lateAfterExc (e : Exc) (sr cause : Word) (l : Cp0Late) : Option Cp0Late :=
  match l.reg.toNat, e.tlbAddress with
  | 12, _ => some { l with old := mergeBits 0x3F sr l.old, reads := 0 }
  | 13, _ => some { l with old := mergeBits 0x300 l.old cause }
  | 10, some va => some { l with old := setVpn va l.old }
  | 4, some va => some { l with old := setBadVpn va l.old }
  | 8, _ => none
  | 14, _ => none
  | _, _ => some l

/-- The pipe at the first instruction of a handler: pending loads are complete (R536, log entry 50), and a multiply behind
the victim may have started (R505, log entry 24). -/
def State.excPipe (s : State) (e : Exc) : Pipe :=
  { Pipe.empty with
    hiloFresh := s.pipe.hiloFresh
    aborted := some ⟨s.pc, s.npc, s.inDelay, s.cp0.sr⟩
    tlbLate := s.pipe.tlbLate
    late := s.pipe.late.filterMap (lateAfterExc e (s.excCp0 e).sr (s.excCp0 e).cause) }

/-- TAKING AN EXCEPTION (R530): the instruction at `pc` is the victim. DESIGN CHOICE (log entry 19): the EntryHi that a TLB
exception loads does not flush the micro-TLB. -/
def State.takeException (s : State) (e : Exc) : State :=
  { s with
    cp0 := s.excCp0 e
    pipe := s.excPipe e
    pc := s.excVector e
    npc := s.excVector e + 4
    inDelay := false }

/-- `raise` (00_scope.md R12). -/
def raise (e : Exc) (s : State) : Result := .next (s.takeException e)

/-- THE RETURN: the KU/IE stack is popped and nothing else changes (45_system_cp0_tlb.md R341). DESIGN CHOICE (log entry
16): within three instructions of an `mtc0` to SR too it is the new SR whose stack is popped. -/
def State.returnFromException (s : State) : State := s.updateSr popMode

/-- The coprocessor check that comes before everything else (45_system_cp0_tlb.md R352, 60_exceptions.md R519). -/
def withCop (z : BitVec 2) (s : State) (k : Result) : Result :=
  if s.usable z then k else raise (.cpu z) s

end Sys2Proof.Machine
end

