-- ==== Sys2Proof/Machine/Memory.lean ====
section
/-! DEFINITION. Physical memory, the bus, the write buffer and the caches (20_memory.md R102, R108, R120-R149). -/

namespace Sys2Proof.Machine

/-! ## Physical memory -/

/-- What a byte nothing has written reads as (log entry 9). -/
def unlistedByte : Byte := 0

/-- The canonical form of memory. -/
def Memory.wf (m : List Host.Cell) : Bool := sparseWf unlistedByte m

/-- One byte of physical memory. -/
def State.byteAt (s : State) (a : Word) : Byte := sparseGet unlistedByte s.mem a.toNat

/-- The address of the word that holds an address. -/
def wordAddr (a : Word) : Word := a &&& 0xFFFFFFFC

/-- The region that the word of a physical address lies in, the first of the list: the map says for each word what it is
(R108), so that the two low address bits, which `ReverseEndian` inverts (R103), choose lanes only. -/
def regionOf (c : Config) (a : Word) : Option Region :=
  c.regions.find? fun r => decide (r.base ≤ (wordAddr a).toNat) && decide ((wordAddr a).toNat < r.base + r.size)

/-- What answers at a physical address (R108). -/
def regionKind (c : Config) (a : Word) : RegionKind :=
  match regionOf c a with
  | some r => r.kind
  | none => .ram

/-- `BusError(paddr, kind)` (00_scope.md R7): the board ends a fetch, or a load, from the address with an error. -/
def busError (c : Config) (fetch : Bool) (a : Word) : Bool :=
  match regionOf c a with
  | some r => r.kind == .absent || (if fetch then r.failsFetch else r.failsLoad)
  | none => false

/-- Byte lane `k` of the word at `w`, counted from the least significant end, has this byte address (R102). -/
def laneAddr (bigEndian : Bool) (w : Word) (k : Nat) : Word :=
  w + (if bigEndian then BitVec.ofNat 32 (3 - k) else BitVec.ofNat 32 k)

/-- The aligned word of memory that holds an address (R102). -/
def State.memWord (s : State) (a : Word) : Word :=
  wordOfBytes s.cfg.bigEndian (s.byteAt (wordAddr a)) (s.byteAt (wordAddr a + 1)) (s.byteAt (wordAddr a + 2))
    (s.byteAt (wordAddr a + 3))

/-- One bus read of the word that holds an address; `none` is a bus error (R122). -/
def State.busRead (s : State) (fetch : Bool) (a : Word) : Option Word :=
  if busError s.cfg fetch a then none
  else match regionKind s.cfg a with
    | .device => some (Config.deviceWord s.draws fetch (wordAddr a))
    | .ram | .rom | .absent => some (s.memWord a)

/-! ## The write buffer (R130-R135) -/

/-- A byte written on the bus; only RAM keeps it (R108). -/
def writeByte (c : Config) (m : List Host.Cell) (a : Word) (v : Byte) : List Host.Cell :=
  match regionKind c a with
  | .ram => sparseSet unlistedByte m a.toNat v
  | .rom | .device | .absent => m

/-- One bus write: the enabled lanes and no other byte (R121). -/
def commitEntry (c : Config) (m : List Host.Cell) (e : WbEntry) : List Host.Cell :=
  [0, 1, 2, 3].foldl (fun m k =>
    if e.be.getLsbD k then writeByte c m (laneAddr c.bigEndian e.addr k) (e.data.extractLsb' (8 * k) 8) else m) m

/-- The oldest entry reaches memory. -/
def State.retire (s : State) : State :=
  match s.wbuf with
  | [] => s
  | e :: rest => { s with mem := commitEntry s.cfg s.mem e, wbuf := rest }

/-- The write buffer is emptied, oldest entry first (R132). -/
def State.drain (s : State) : State :=
  { s with mem := s.wbuf.foldl (commitEntry s.cfg) s.mem, wbuf := [] }

/-- A store enters the buffer; with four entries there it waits for one to leave (R130). -/
def State.pushStore (s : State) (e : WbEntry) : State :=
  if s.wbuf.length < 4 then { s with wbuf := s.wbuf ++ [e] }
  else { s.retire with wbuf := s.retire.wbuf ++ [e] }

/-! ## The caches (R125-R129, R139, R143-R146) -/

def DLine.blank : DLine := ⟨false, 0, 0⟩
def ILine.blank : ILine := ⟨false, 0, Vector.replicate 4 0⟩

/-- Config as the bus and the caches see it (70_reset_and_hazards.md R599). -/
def State.configView (s : State) : Word := s.cp0View 3 3 s.cp0.config

/-- D-cache bytes (00_scope.md R2, 10_state.md R61). -/
def State.dBytes (s : State) : Nat :=
  match s.cfg.member with
  | .r3041 => 512
  | .r3051 => 1024
  | .r3052 => 2048
  | .r3071 | .r3081 => if s.configView.getLsbD 23 then 8192 else 4096

/-- I-cache bytes (00_scope.md R2, 10_state.md R61). -/
def State.iBytes (s : State) : Nat :=
  match s.cfg.member with
  | .r3041 => 2048
  | .r3051 => 4096
  | .r3052 => 8192
  | .r3071 | .r3081 => if s.configView.getLsbD 23 then 8192 else 16384

def State.dIndex (s : State) (a : Word) : Nat := a.toNat % s.dBytes / 4
def State.dTag (s : State) (a : Word) : Nat := a.toNat / s.dBytes
def State.iIndex (s : State) (a : Word) : Nat := a.toNat % s.iBytes / 16
def State.iTag (s : State) (a : Word) : Nat := a.toNat / s.iBytes

/-- The place of a word in its four-word line. -/
def lineWord (a : Word) : Nat := a.toNat / 4 % 4

theorem lineWord_lt (a : Word) : lineWord a < 4 := Nat.mod_lt _ (by decide)

def State.dLine (s : State) (a : Word) : DLine := sparseGet DLine.blank s.dcache (s.dIndex a)
def State.iLine (s : State) (a : Word) : ILine := sparseGet ILine.blank s.icache (s.iIndex a)

def State.setDLine (s : State) (a : Word) (l : DLine) : State :=
  { s with dcache := sparseSet DLine.blank s.dcache (s.dIndex a) l }

def State.setILine (s : State) (a : Word) (l : ILine) : State :=
  { s with icache := sparseSet ILine.blank s.icache (s.iIndex a) l }

def State.dHit (s : State) (a : Word) : Bool := (s.dLine a).valid && (s.dLine a).tag == s.dTag a
def State.iHit (s : State) (a : Word) : Bool := (s.iLine a).valid && (s.iLine a).tag == s.iTag a

/-- The word of an I-cache line an address selects. -/
def ILine.word (l : ILine) (a : Word) : Word := l.words[lineWord a]'(lineWord_lt a)

/-- The first address of the aligned four words that hold an address. -/
def blockAddr (a : Word) : Word := a &&& 0xFFFFFFF0

/-- A four-word burst; an error on any word is the access's error (D23, log entry 51). -/
def State.busBurst (s : State) (fetch : Bool) (a : Word) : Option (Vector Word 4) :=
  match s.busRead fetch (blockAddr a), s.busRead fetch (blockAddr a + 4), s.busRead fetch (blockAddr a + 8),
    s.busRead fetch (blockAddr a + 12) with
  | some w0, some w1, some w2, some w3 => some #v[w0, w1, w2, w3]
  | _, _, _, _ => none

/-- Four D-cache lines take a burst (R139). -/
def State.fillDBlock (s : State) (a : Word) (w : Vector Word 4) : State :=
  let b := blockAddr a
  (((s.setDLine b ⟨true, s.dTag b, w[0]⟩).setDLine (b + 4) ⟨true, s.dTag b, w[1]⟩).setDLine (b + 8)
    ⟨true, s.dTag b, w[2]⟩).setDLine (b + 12) ⟨true, s.dTag b, w[3]⟩

/-- Whether a D-cache miss reads four words (R139): Config.DBR on the R3041, Config.DB on the R3071 and R3081, the
reset-time pin on the R3051 and R3052. -/
def State.blockRefill (s : State) : Bool :=
  match s.cfg.member with
  | .r3051 | .r3052 => s.cfg.dbRefillAtReset
  | .r3041 | .r3071 | .r3081 => s.configView.getLsbD 29

/-- R3041 Config.FDM: every cached load misses (R148). -/
def State.forceMiss (s : State) : Bool := s.cfg.is3041 && s.configView.getLsbD 19

/-- The refill of a D-cache miss, after the write buffer is empty: the word and the machine with the lines filled. -/
def State.refillD (s : State) (fetch : Bool) (block : Bool) (a : Word) : Option (Word × State) :=
  if block then
    match s.busBurst fetch a with
    | some w => some (w[lineWord a]'(lineWord_lt a), s.fillDBlock a w)
    | none => none
  else
    match s.busRead fetch a with
    | some w => some (w, s.setDLine a ⟨true, s.dTag a, w⟩)
    | none => none

/-- How an access to memory ends. -/
inductive Access where
  /-- The word (or nothing of interest, for a store). -/
  | done (w : Word) (s : State)
  /-- The access raises an exception. -/
  | exc (e : Exc) (s : State)
  /-- More than one TLB entry matched (R118). -/
  | shutdown (s : State)
  /-- A mapped access after the shutdown (R118). -/
  | dead

/-- A cached data read (R127). -/
def State.cachedRead (s : State) (a : Word) : Access :=
  if s.dHit a && !s.forceMiss then .done (s.dLine a).data s
  else match s.drain.refillD false s.blockRefill a with
    | some (w, s') => .done w s'
    | none => .exc .dbe s.drain

/-- SR.CM shows whether an isolated load would have missed (10_state.md R37). -/
def State.setCm (s : State) (miss : Bool) : State := s.updateSr fun sr => setBit sr 19 miss

/-- A load from the isolated cache: always the line's data, and CM (R144); swapped, from the I-cache (R146). -/
def State.isolatedRead (s : State) (a : Word) : Access :=
  if s.swapped then .done ((s.iLine a).word a) (s.setCm (!s.iHit a))
  else .done (s.dLine a).data (s.setCm (!s.dHit a))

/-- What the I-cache line is left as by a data access with the caches swapped but not isolated (R146). DESIGN CHOICE (log
entry 41): its tag is that of the accessed address; the valid bit and the words are free. -/
def State.swappedLine (s : State) (a : Word) : ILine :=
  { valid := s.choose .swappedLine, tag := s.iTag a,
    words := #v[s.free (.swapped 0), s.free (.swapped 1), s.free (.swapped 2), s.free (.swapped 3)] }

/-- A data read of the word that holds an address (R120). DESIGN CHOICE (log entry 41): a cached one with the caches swapped
but not isolated does not reach the bus. -/
def State.readData (s : State) (uncached : Bool) (a : Word) : Access :=
  if s.isolated then s.isolatedRead a
  else if uncached then
    match s.drain.busRead false a with
    | some w => .done w s.drain
    | none => .exc .dbe s.drain
  else if s.swapped then .done (s.free (.swapped 4)) (s.setILine a (s.swappedLine a))
  else s.cachedRead a

/-- The lanes of `be` from `new`, the others from `old`. -/
def mergeLanes (be : BitVec 4) (old new : Word) : Word :=
  mergeBits ((if be.getLsbD 0 then 0x000000FF else 0) ||| (if be.getLsbD 1 then 0x0000FF00 else 0)
    ||| (if be.getLsbD 2 then 0x00FF0000 else 0) ||| (if be.getLsbD 3 then 0xFF000000 else 0)) new old

/-- A store to the isolated cache: a word is written with its tag, a part of a word invalidates (R145, R146). DESIGN CHOICE
(log entry 55): the line a part of a word invalidates keeps its tag and data. -/
def State.isolatedWrite (s : State) (a data : Word) (be : BitVec 4) : State :=
  if s.swapped then
    if be = 0b1111 then
      s.setILine a { valid := true, tag := s.iTag a, words := (s.iLine a).words.set (lineWord a) data (lineWord_lt a) }
    else s.setILine a { s.iLine a with valid := false }
  else
    if be = 0b1111 then s.setDLine a ⟨true, s.dTag a, data⟩
    else s.setDLine a { s.dLine a with valid := false }

/-- What a cached store does to the D-cache: a word always, a part of a word on a hit (R128). -/
def State.cacheStore (s : State) (a data : Word) (be : BitVec 4) : State :=
  if be = 0b1111 then s.setDLine a ⟨true, s.dTag a, data⟩
  else if s.dHit a then s.setDLine a { s.dLine a with data := mergeLanes be (s.dLine a).data data }
  else s

/-- A store of the lanes `be` of `data` into the word that holds an address (R121). -/
def State.writeData (s : State) (uncached : Bool) (a data : Word) (be : BitVec 4) : State :=
  if s.isolated then s.isolatedWrite a data be
  else
    let s' := s.pushStore ⟨wordAddr a, data, be⟩
    if uncached then s'
    else if s.swapped then s'.setILine a (s.swappedLine a)
    else s'.cacheStore a data be

/-- An instruction fetch of the word at an address: an uncached one waits for the write buffer, an I-cache refill
does not (R134); swapped, the D-cache serves as I-cache (R146). DESIGN CHOICE (log entry 41): a swapped fetch that misses
fills four D-cache lines, as an I-cache refill does, whatever Config says of D-cache refills, and does not wait for the write
buffer. -/
def State.fetchWord (s : State) (uncached : Bool) (a : Word) : Access :=
  if uncached then
    match s.drain.busRead true a with
    | some w => .done w s.drain
    | none => .exc .ibe s.drain
  else if s.swapped then
    if s.dHit a then .done (s.dLine a).data s
    else match s.refillD true true a with
      | some (w, s') => .done w s'
      | none => .exc .ibe s
  else if s.iHit a then .done ((s.iLine a).word a) s
  else match s.busBurst true a with
    | some w => .done (w[lineWord a]'(lineWord_lt a)) (s.setILine a ⟨true, s.iTag a, w⟩)
    | none => .exc .ibe s

end Sys2Proof.Machine
end

