-- ==== Sys2Proof/Machine/Translate.lean ====
section
/-! DEFINITION. Address translation (20_memory.md R105-R119), the fetch, and one data access. -/

namespace Sys2Proof.Machine

/-! ## The fields of a TLB entry (10_state.md R65, R66, R70) -/

def TlbEntry.vpn (e : TlbEntry) : BitVec 20 := e.hi.extractLsb' 12 20
def TlbEntry.asid (e : TlbEntry) : BitVec 6 := e.hi.extractLsb' 6 6
def TlbEntry.pfn (e : TlbEntry) : BitVec 20 := e.lo.extractLsb' 12 20
def TlbEntry.noncacheable (e : TlbEntry) : Bool := e.lo.getLsbD 11
def TlbEntry.writable (e : TlbEntry) : Bool := e.lo.getLsbD 10
def TlbEntry.valid (e : TlbEntry) : Bool := e.lo.getLsbD 9
def TlbEntry.global (e : TlbEntry) : Bool := e.lo.getLsbD 8

/-- The match of R113: VPN equal, and G set or ASID equal. V takes no part. -/
def TlbEntry.hits (e : TlbEntry) (vpn : BitVec 20) (asid : BitVec 6) : Bool :=
  e.vpn == vpn && (e.global || e.asid == asid)

/-- The virtual page number of an address. -/
def vpnOf (va : Word) : BitVec 20 := va.extractLsb' 12 20

/-! ## The TLB as an operation sees it (70_reset_and_hazards.md R600, log entry 19) -/

/-- The entry or one it replaced at most `n` instructions ago. -/
def State.tlbView (s : State) (n : Nat) (i : BitVec 6) : TlbEntry :=
  (s.pipe.tlbLate.filter fun l => l.index == i && decide (l.age ≤ n)).foldl
    (fun v l => if l.old = v then v else if s.choose (.tlbView i.toNat l.age) then l.old else v)
    (s.tlb[i.toNat]'i.isLt)

/-- The indices of the matching entries, lowest first. -/
def State.tlbMatches (s : State) (n : Nat) (vpn : BitVec 20) (asid : BitVec 6) : List (BitVec 6) :=
  ((List.range 64).map (BitVec.ofNat 6)).filter fun i => (s.tlbView n i).hits vpn asid

/-- The current address space (10_state.md R65), inside the window of R599 either way. -/
def State.asidView (s : State) : BitVec 6 := (s.cp0View 10 3 s.cp0.entryHi).extractLsb' 6 6

/-! ## Translation -/

/-- What a translation answers. -/
inductive Xlate where
  | ok (pa : Word) (uncached : Bool)
  | exc (e : Exc)
  /-- More than one entry matches (R118). -/
  | multiple
  /-- SR.TS is already set (R118). -/
  | dead
  deriving DecidableEq, Repr

/-- The regions no TLB translates (R105, R107): kseg0, kseg1, and on a base part kuseg and kseg2. -/
def fixedMap (c : Config) (va : Word) : Option (Word × Bool) :=
  if va.extractLsb' 29 3 = 0b100 then some (va &&& 0x1FFFFFFF, false)
  else if va.extractLsb' 29 3 = 0b101 then some (va &&& 0x1FFFFFFF, true)
  else if c.hasMmu then none
  else if va.msb then some (va, c.baseMappedUncached)
  else some (va + 0x40000000, c.baseMappedUncached)

/-- SR.TS, which only hardware writes (10_state.md R35). -/
def State.tlbShutDown (s : State) : Bool := s.cp0.sr.getLsbD 21

/-- The physical address of a page's entry. -/
def physical (pfn : BitVec 20) (va : Word) : Word := pfn ++ va.extractLsb' 0 12

/-- kuseg and kseg2 on an "E" part, in the address space `asid` (R113-R117). -/
def State.translateIn (s : State) (asid : BitVec 6) (n : Nat) (va : Word) (store : Bool) : Xlate :=
  if s.tlbShutDown then .dead
  else match s.tlbMatches n (vpnOf va) asid with
    | [] => .exc (if store then .tlbs va true else .tlbl va true)
    | [i] =>
      let e := s.tlbView n i
      if !e.valid then .exc (if store then .tlbs va false else .tlbl va false)
      else if store && !e.writable then .exc (.mod va)
      else .ok (physical e.pfn va) e.noncacheable
    | _ => .multiple

/-- The same in the current address space. -/
def State.translateMapped (s : State) (n : Nat) (va : Word) (store : Bool) : Xlate := s.translateIn s.asidView n va store

/-- `AddressTranslation` of a data access (R112): a TLB write is seen from the instruction after the next (R600 (c)). -/
def State.translate (s : State) (va : Word) (store : Bool) : Xlate :=
  if s.userMode && va.msb then .exc (if store then .ades va else .adel va)
  else match fixedMap s.cfg va with
    | some (pa, uncached) => .ok pa uncached
    | none => s.translateMapped 1 va store

/-! ## The fetch -/

/-- The micro-TLB holds one or two pages, the last used first (10_state.md R71). -/
def holdPage (c : Config) (held : List HeldPage) (p : HeldPage) : List HeldPage :=
  (p :: held.filter fun q => q.vpn != p.vpn).take (if c.utlbTwo then 2 else 1)

/-- Nothing in flight can change what a fetch translates to. -/
def State.translationSettled (s : State) : Bool := (s.recent 10 3).isEmpty && s.pipe.tlbLate.isEmpty

/-- Whether the micro-TLB takes the page of a fetch it did not hold (R119, log entry 19): with a window open either way,
but never a translation that only the earlier address space gives, since loading EntryHi empties it. -/
def State.holdsPage (s : State) (va : Word) (x : Xlate) : Bool :=
  s.translationSettled
    || (s.translateIn (s.cp0.entryHi.extractLsb' 6 6) 2 va false == x && s.choose .pageHeld)

/-- `AddressTranslation` of a fetch, through the micro-TLB (R119); a TLB write has a window of two (R600 (a)). -/
def State.translateFetch (s : State) (va : Word) : Xlate × List HeldPage :=
  if va.extractLsb' 0 2 != 0 then (.exc (.adel va), s.utlb)
  else if s.userMode && va.msb then (.exc (.adel va), s.utlb)
  else match fixedMap s.cfg va with
    | some (pa, uncached) => (.ok pa uncached, s.utlb)
    | none =>
      if s.tlbShutDown then (.dead, s.utlb)
      else match s.utlb.find? fun p => p.vpn == vpnOf va with
        | some p => (.ok (physical p.pfn va) p.noncacheable, holdPage s.cfg s.utlb p)
        | none =>
          match s.translateMapped 2 va false with
          | .ok pa uncached =>
            (.ok pa uncached,
              if s.holdsPage va (.ok pa uncached) then holdPage s.cfg s.utlb ⟨vpnOf va, pa.extractLsb' 12 20, uncached⟩
              else s.utlb)
          | x => (x, s.utlb)

/-- The fetch of the instruction at `pc` (44_branch_jump.md R300). -/
def State.fetch (s : State) : Access :=
  match s.translateFetch s.pc with
  | (.ok pa uncached, held) => { s with utlb := held }.fetchWord uncached pa
  | (.exc e, _) => .exc e s
  | (.multiple, _) => .shutdown s
  | (.dead, _) => .dead

/-! ## One data access -/

/-- The word that holds a program address, for a load (43_loadstore.md R261). -/
def State.load (s : State) (va : Word) : Access :=
  match s.translate va false with
  | .ok pa uncached => s.readData uncached pa
  | .exc e => .exc e s
  | .multiple => .shutdown s
  | .dead => .dead

/-- A store of the lanes `be` of `data` (43_loadstore.md R262). -/
def State.store (s : State) (va data : Word) (be : BitVec 4) : Access :=
  match s.translate va true with
  | .ok pa uncached => .done data (s.writeData uncached pa data be)
  | .exc e => .exc e s
  | .multiple => .shutdown s
  | .dead => .dead

/-- The end of an access: the instruction goes on, or its exception is taken, or the TLB shuts down: SR.TS is set and
the instruction waits at its address (R118, log entry 20). -/
def Access.andThen (x : Access) (k : Word → State → Result) : Result :=
  match x with
  | .done w s => k w s
  | .exc e s => raise e s
  | .shutdown s => .next (s.updateSr fun sr => setBit sr 21 true)
  | .dead => .fault .tlbShutdown

end Sys2Proof.Machine
end

