-- ==== Sys2Proof/Machine/Operands.lean ====
section
/-! DEFINITION. The operand forms: immediates, shift amounts, effective addresses, byte lanes, branch and jump
targets, FP register pairs (30_encoding.md R162-R165, 43_loadstore.md R260-R262, R275, 46_coprocessor_fpa.md R374). -/

namespace Sys2Proof.Machine

/-! ## Immediates (30_encoding.md R163) -/

/-- `sext_32` of a 16-bit immediate. -/
def sext (imm : BitVec 16) : Word := imm.signExtend 32

/-- `zext_32` of a 16-bit immediate. -/
def zext (imm : BitVec 16) : Word := imm.setWidth 32

/-- The amount of a variable shift: the low five bits of `rs` (41_shift.md R230). -/
def shiftAmount (v : Word) : BitVec 5 := v.setWidth 5

/-! ## Addresses -/

/-- `x[base] + sext_32(offset)` (43_loadstore.md R260). -/
def State.effAddr (s : State) (base : Reg) (offset : BitVec 16) : Word := s.src base + sext offset

/-- A data access of `size` bytes must be aligned (20_memory.md R110). -/
def misaligned (va : Word) (size : Nat) : Bool := va.toNat % size != 0

/-- The byte lane of a byte access, and `byte` of R275: `vAddr[1:0] xor BigEndianCPU^2`. -/
def State.byteLane (s : State) (va : Word) : Nat :=
  ((va.setWidth 2 : BitVec 2) ^^^ (if s.bigEndianCpu then 0b11#2 else 0#2)).toNat

/-- The first byte lane of a halfword access: `vAddr[1:0] xor (BigEndianCPU || 0)` (R261). -/
def State.halfLane (s : State) (va : Word) : Nat :=
  ((va.setWidth 2 : BitVec 2) ^^^ (if s.bigEndianCpu then 0b10#2 else 0#2)).toNat

/-- The byte of a word in a lane. -/
def laneByte (w : Word) (lane : Nat) : Byte := w.extractLsb' (8 * lane) 8

/-- The halfword of a word from a lane up. -/
def laneHalf (w : Word) (lane : Nat) : BitVec 16 := w.extractLsb' (8 * lane) 16

/-- `lwl` (R275): `mem[8*byte+7:0] || r[23-8*byte:0]`. -/
def loadLeft (mem r : Word) (byte : Nat) : Word :=
  mergeBits (0xFFFFFFFF <<< (24 - 8 * byte)) (mem <<< (24 - 8 * byte)) r

/-- `lwr` (R275): `r[31:32-8*byte] || mem[31:8*byte]`. -/
def loadRight (mem r : Word) (byte : Nat) : Word :=
  mergeBits (0xFFFFFFFF >>> (8 * byte)) (mem >>> (8 * byte)) r

/-- The data of `swl` in its lanes (R278): `0^(24-8*byte) || r[31:24-8*byte]`. -/
def storeLeft (r : Word) (byte : Nat) : Word := r >>> (24 - 8 * byte)

/-- The data of `swr` in its lanes (R279): `r[31-8*byte:0] || 0^(8*byte)`. -/
def storeRight (r : Word) (byte : Nat) : Word := r <<< (8 * byte)

/-- The lanes `lo` to `lo + n - 1` as byte enables. -/
def lanes (lo n : Nat) : BitVec 4 := BitVec.ofNat 4 ((2 ^ n - 1) * 2 ^ lo)

/-! ## Targets (44_branch_jump.md R304) -/

/-- `(pc + 4) + sext_32(offset || 0b00)`. -/
def State.branchTarget (s : State) (offset : BitVec 16) : Word := s.pc + 4 + (sext offset <<< 2)

/-- `(pc + 4)[31:28] || target || 0b00`. -/
def State.jumpTarget (s : State) (target : BitVec 26) : Word :=
  mergeBits 0xF0000000 (s.pc + 4) (target.setWidth 32 <<< 2)

/-! ## FP register pairs (46_coprocessor_fpa.md R374, R375) -/

/-- The even register of the pair a specifier lies in. -/
def pairEven (r : Reg) : Reg := r &&& 0b11110

/-- The odd register of the pair. -/
def pairOdd (r : Reg) : Reg := r ||| 1

/-- `ValueFPR(fpr, D)`. -/
def State.srcDouble (s : State) (r : Reg) : BitVec 64 := s.srcFpr (pairOdd r) ++ s.srcFpr (pairEven r)

/-- `ValueFPR(fpr, S)` and `ValueFPR(fpr, W)`, in the low half. -/
def State.srcSingle (s : State) (r : Reg) : BitVec 64 := (s.srcFpr r).setWidth 64

/-- `StoreFPR(fpr, D, v)`. -/
def State.storeDouble (s : State) (r : Reg) (v : BitVec 64) : State :=
  (s.setFpr (pairOdd r) (v.extractLsb' 32 32)).setFpr (pairEven r) (v.extractLsb' 0 32)

/-- `StoreFPR(fpr, S, v)` and `StoreFPR(fpr, W, v)`: the odd register of the pair is undefined (R375). -/
def State.storeSingle (s : State) (r : Reg) (v : BitVec 64) : State :=
  (s.setFpr (pairOdd r) (s.free .fpOddHalf)).setFpr (pairEven r) (v.extractLsb' 0 32)

end Sys2Proof.Machine
end

