-- ==== Sys2Proof/Machine/Flags.lean ====
section
/-! DEFINITION. The tests and flags: integer overflow and comparison (40_alu.md R201, R217, R218), FCR31's fields and
the FP request (10_state.md R75, 46_coprocessor_fpa.md R432), the interrupt condition (60_exceptions.md R522, R598),
the coprocessor conditions (44_branch_jump.md R318). -/

namespace Sys2Proof.Machine

/-! ## Integer -/

/-- The 32-bit signed sum overflows (R201). -/
def addOverflows (a b : Word) : Bool := (a + b).toInt != a.toInt + b.toInt

/-- The 32-bit signed difference overflows (R201). -/
def subOverflows (a b : Word) : Bool := (a - b).toInt != a.toInt - b.toInt

/-- 1 when true, else 0 (R217). -/
def flagWord (b : Bool) : Word := if b then 1 else 0

/-! ## FCR31 (10_state.md R75) -/

def fcrC (f : Word) : Bool := f.getLsbD 23
def fcrUnimp (f : Word) : Bool := f.getLsbD 17
def fcrCause (f : Word) : BitVec 5 := f.extractLsb' 12 5
def fcrEnables (f : Word) : BitVec 5 := f.extractLsb' 7 5
def fcrFlags (f : Word) : BitVec 5 := f.extractLsb' 2 5
def fcrMode (f : Word) : BitVec 2 := f.extractLsb' 0 2

/-- The fields of FCR31 that exist. -/
def fcrMask : Word := 0x0083FFFF

/-- Write UnImp and Cause. -/
def setFcrCause (f : Word) (unimp : Bool) (cause : BitVec 5) : Word :=
  mergeBits 0x0003F000 ((if unimp then 0x00020000 else 0) ||| (cause.setWidth 32 <<< 12)) f

/-- Set sticky flags (R77). -/
def orFcrFlags (f : Word) (flags : BitVec 5) : Word := f ||| (flags.setWidth 32 <<< 2)

/-- Write the condition bit (R79). -/
def setFcrC (f : Word) (c : Bool) : Word := setBit f 23 c

/-- `FPreq = UnImp or (Cause and Enables) != 0` (46_coprocessor_fpa.md R432). -/
def fpRequest (f : Word) : Bool := fcrUnimp f || fcrCause f &&& fcrEnables f != 0

/-! ## Interrupts -/

/-- The inputs the FPA drives, by Config.FPInt (10_state.md R59); which ones for 6 and 7 is open (log entry 45). -/
def State.fpPins (s : State) : BitVec 6 :=
  if !s.cfg.hasFpa then 0
  else if (s.configView.extractLsb' 26 3).toNat < 6 then 1#6 <<< (s.configView.extractLsb' 26 3).toNat
  else (s.free .fpIntPin).setWidth 6

/-- Cause.IP[7:2] in place: the pins, but for the one the FPA drives (10_state.md R48, R59). -/
def State.ipBits (s : State) : Word :=
  ((s.pins.int &&& ~~~s.fpPins) ||| (if fpRequest s.fcr31 then s.fpPins else 0)).setWidth 32 <<< 10

/-- `SR.IEc = 1 and (IP and IM) != 0` (R522), with IEc, IM and the software bits taken from the given words. -/
def irqCondition (ie im ip cause : Word) : Bool :=
  ie.getLsbD 0 && ((ip ||| (cause &&& 0x300)) &&& im &&& 0xFF00) != 0

/-- A write of SR from `old` to `new` changed IEc and IM together (R598). -/
def changedBoth (old new : Word) : Bool :=
  old.getLsbD 0 != new.getLsbD 0 && (old ^^^ new) &&& 0xFF00 != 0

/-- Whether an interrupt of the inputs `ip`, and of the software bits `soft` of Cause, is taken at a boundary where writes
at most `n` instructions old are in the window of R598 (log entry 18): as the present and the earlier values agree; a free
outcome where only an earlier value asks for it, or where one write changed IEc and IM together and a mixture asks for
it. -/
def State.interruptBy (s : State) (ip soft : Word) (n : Nat) : Bool :=
  let srs := (s.recent 12 n).map (·.old)
  let causes := (s.recent 13 n).map (·.old &&& soft)
  let cause := s.cp0.cause &&& soft
  let new := irqCondition s.cp0.sr s.cp0.sr ip cause
  if srs.isEmpty && causes.isEmpty then new
  else
    let oldSrs := if srs.isEmpty then [s.cp0.sr] else srs
    let oldCauses := if causes.isEmpty then [cause] else causes
    let olds := oldSrs.flatMap fun a => oldCauses.map fun c => irqCondition a a ip c
    let writes := srs.zip (s.cp0.sr :: srs)
    let mixed := writes.any fun w => changedBoth w.1 w.2
      && (cause :: causes).any fun c => irqCondition w.1 w.2 ip c || irqCondition w.2 w.1 ip c
    if new && olds.all id then true
    else if olds.any id || mixed then s.choose .interrupt
    else false

/-- The state at the boundary before the instruction at `pc`: a window of three instructions has closed before the
fourth (70_reset_and_hazards.md R599). -/
def State.atBoundary (s : State) : State :=
  { s with pipe := { s.pipe with late := s.pipe.late.filter fun l => decide (l.age ≤ 2) } }

/-- The interrupt condition before the instruction at `pc` (R522, R526). DESIGN CHOICE (log entry 36): a request that `ctc1`
raises or withdraws counts from the very next boundary. -/
def State.interruptPending (s : State) : Bool := s.atBoundary.interruptBy s.atBoundary.ipBits 0x300 1

/-- The FPA's own request is enabled at the instruction that raises it (46_coprocessor_fpa.md R432). -/
def State.fpInterruptEnabled (s : State) : Bool := s.interruptBy (s.fpPins.setWidth 32 <<< 10) 0 2

/-! ## Coprocessor conditions (44_branch_jump.md R318) -/

/-- `CpCond[z]`: the FP condition for z = 1 with the FPA (free inside the window of R594, R595), else the pin (free
where the R3041 has given the pin away, log entry 52). -/
def State.cpCond (s : State) (z : BitVec 2) : Bool :=
  if z = 1 ∧ s.cfg.hasFpa then
    if s.pipe.condWin = 0 then fcrC s.fcr31 else s.choose .condition
  else if s.cfg.is3041 ∧ z.toNat ≥ 2 ∧ (s.cp0View 2 3 s.cp0.busCtrl).getLsbD 13 = false then s.choose .condition
  else s.pins.brCond.getLsbD z.toNat

end Sys2Proof.Machine
end

