-- ==== Sys2Proof/Machine/Alu.lean ====
section
/-! DEFINITION. Integer arithmetic, logical and compare instructions (40_alu.md R203-R220). -/

namespace Sys2Proof.Machine

/-- An instruction whose one effect is a register (R200). -/
def writeReg (rd : Reg) (v : Word) (s : State) : Result := done (s.setGpr rd v)

/-- The same with the overflow trap of R201. -/
def writeRegOrOverflow (overflow : Bool) (rd : Reg) (v : Word) (s : State) : Result :=
  if overflow then raise .ov s else writeReg rd v s

/-- `add` (R203). -/
def execAdd (rd rs rt : Reg) (s : State) : Result :=
  writeRegOrOverflow (addOverflows (s.src rs) (s.src rt)) rd (s.src rs + s.src rt) s

/-- `addu` (R204). -/
def execAddu (rd rs rt : Reg) (s : State) : Result :=
  writeReg rd (s.src rs + s.src rt) s

/-- `sub` (R205). -/
def execSub (rd rs rt : Reg) (s : State) : Result :=
  writeRegOrOverflow (subOverflows (s.src rs) (s.src rt)) rd (s.src rs - s.src rt) s

/-- `subu` (R206). -/
def execSubu (rd rs rt : Reg) (s : State) : Result :=
  writeReg rd (s.src rs - s.src rt) s

/-- `addi` (R207). -/
def execAddi (rt rs : Reg) (imm : BitVec 16) (s : State) : Result :=
  writeRegOrOverflow (addOverflows (s.src rs) (sext imm)) rt (s.src rs + sext imm) s

/-- `addiu` (R208). -/
def execAddiu (rt rs : Reg) (imm : BitVec 16) (s : State) : Result :=
  writeReg rt (s.src rs + sext imm) s

/-- `and` (R209). -/
def execAnd (rd rs rt : Reg) (s : State) : Result :=
  writeReg rd (s.src rs &&& s.src rt) s

/-- `or` (R210). -/
def execOr (rd rs rt : Reg) (s : State) : Result :=
  writeReg rd (s.src rs ||| s.src rt) s

/-- `xor` (R211). -/
def execXor (rd rs rt : Reg) (s : State) : Result :=
  writeReg rd (s.src rs ^^^ s.src rt) s

/-- `nor` (R212). -/
def execNor (rd rs rt : Reg) (s : State) : Result :=
  writeReg rd (~~~(s.src rs ||| s.src rt)) s

/-- `andi` (R213). -/
def execAndi (rt rs : Reg) (imm : BitVec 16) (s : State) : Result :=
  writeReg rt (s.src rs &&& zext imm) s

/-- `ori` (R214). -/
def execOri (rt rs : Reg) (imm : BitVec 16) (s : State) : Result :=
  writeReg rt (s.src rs ||| zext imm) s

/-- `xori` (R215). -/
def execXori (rt rs : Reg) (imm : BitVec 16) (s : State) : Result :=
  writeReg rt (s.src rs ^^^ zext imm) s

/-- `lui` (R216). -/
def execLui (rt : Reg) (imm : BitVec 16) (s : State) : Result :=
  writeReg rt (imm ++ 0#16) s

/-- `slt` (R217). -/
def execSlt (rd rs rt : Reg) (s : State) : Result :=
  writeReg rd (flagWord ((s.src rs).slt (s.src rt))) s

/-- `sltu` (R218). -/
def execSltu (rd rs rt : Reg) (s : State) : Result :=
  writeReg rd (flagWord ((s.src rs).ult (s.src rt))) s

/-- `slti` (R219). -/
def execSlti (rt rs : Reg) (imm : BitVec 16) (s : State) : Result :=
  writeReg rt (flagWord ((s.src rs).slt (sext imm))) s

/-- `sltiu` (R220). -/
def execSltiu (rt rs : Reg) (imm : BitVec 16) (s : State) : Result :=
  writeReg rt (flagWord ((s.src rs).ult (sext imm))) s

end Sys2Proof.Machine
end

