-- ==== Sys2Proof/Machine/Branch.lean ====
section
/-! DEFINITION. Branches and jumps (44_branch_jump.md R306-R318, 46_coprocessor_fpa.md R427). -/

namespace Sys2Proof.Machine

/-- A conditional branch (R304). -/
def branchIf (taken : Bool) (offset : BitVec 16) (s : State) : Result := branchTo s taken (s.branchTarget offset)

/-- A branch that links, taken or not (R303). -/
def branchAndLink (taken : Bool) (offset : BitVec 16) (s : State) : Result :=
  branchTo (s.setGpr 31 s.link) taken (s.branchTarget offset)

/-- `bczf` and `bczt` (R318): the branch is taken when the condition is `want`. -/
def branchOnCop (z : BitVec 2) (want : Bool) (offset : BitVec 16) (s : State) : Result :=
  withCop z s (branchIf (s.cpCond z == want) offset s)

/-- `beq` (R306). -/
def execBeq (rs rt : Reg) (offset : BitVec 16) (s : State) : Result :=
  branchIf (s.src rs == s.src rt) offset s

/-- `bne` (R307). -/
def execBne (rs rt : Reg) (offset : BitVec 16) (s : State) : Result :=
  branchIf (s.src rs != s.src rt) offset s

/-- `blez` (R308). -/
def execBlez (rs : Reg) (offset : BitVec 16) (s : State) : Result :=
  branchIf ((s.src rs).toInt ≤ 0) offset s

/-- `bgtz` (R309). -/
def execBgtz (rs : Reg) (offset : BitVec 16) (s : State) : Result :=
  branchIf (0 < (s.src rs).toInt) offset s

/-- `bltz` (R310). -/
def execBltz (rs : Reg) (offset : BitVec 16) (s : State) : Result :=
  branchIf (s.src rs).msb offset s

/-- `bgez` (R311). -/
def execBgez (rs : Reg) (offset : BitVec 16) (s : State) : Result :=
  branchIf (!(s.src rs).msb) offset s

/-- `bltzal` (R312). -/
def execBltzal (rs : Reg) (offset : BitVec 16) (s : State) : Result :=
  branchAndLink (s.src rs).msb offset s

/-- `bgezal` (R313). -/
def execBgezal (rs : Reg) (offset : BitVec 16) (s : State) : Result :=
  branchAndLink (!(s.src rs).msb) offset s

/-- `j` (R314). -/
def execJ (target : BitVec 26) (s : State) : Result :=
  branchTo s true (s.jumpTarget target)

/-- `jal` (R315). -/
def execJal (target : BitVec 26) (s : State) : Result :=
  branchTo (s.setGpr 31 s.link) true (s.jumpTarget target)

/-- `jr` (R316). -/
def execJr (rs : Reg) (s : State) : Result :=
  branchTo s true (s.src rs)

/-- `jalr` (R317); with `rs` = `rd` the target is undefined. DESIGN CHOICE (log entry 23): also for `jalr $0,$0`. -/
def execJalr (rd rs : Reg) (s : State) : Result :=
  branchTo (s.setGpr rd s.link) true (if rs = rd then s.free .jalrTarget else s.src rs)

/-- `bc0f` (R318). -/
def execBc0f (offset : BitVec 16) (s : State) : Result :=
  branchOnCop 0 false offset s

/-- `bc0t` (R318). -/
def execBc0t (offset : BitVec 16) (s : State) : Result :=
  branchOnCop 0 true offset s

/-- `bc1f` (R427). -/
def execBc1f (offset : BitVec 16) (s : State) : Result :=
  branchOnCop 1 false offset s

/-- `bc1t` (R427). -/
def execBc1t (offset : BitVec 16) (s : State) : Result :=
  branchOnCop 1 true offset s

/-- `bc2f` (R318). -/
def execBc2f (offset : BitVec 16) (s : State) : Result :=
  branchOnCop 2 false offset s

/-- `bc2t` (R318). -/
def execBc2t (offset : BitVec 16) (s : State) : Result :=
  branchOnCop 2 true offset s

/-- `bc3f` (R318). -/
def execBc3f (offset : BitVec 16) (s : State) : Result :=
  branchOnCop 3 false offset s

/-- `bc3t` (R318). -/
def execBc3t (offset : BitVec 16) (s : State) : Result :=
  branchOnCop 3 true offset s

end Sys2Proof.Machine
end

