-- ==== Sys2Proof/Machine/LoadStore.lean ====
section
/-! DEFINITION. Integer loads and stores (43_loadstore.md R265-R279). -/

namespace Sys2Proof.Machine

/-- A load or store: directly after `tlbp` it has no meaning (45_system_cp0_tlb.md R347); the next instruction knows
of it (R341). -/
def memoryOp (s : State) (k : State → Result) : Result :=
  if s.pipe.prev = .tlbp then .fault .memRefAfterTlbp else k { s with pipe := { s.pipe with this := .memory } }

/-- `MemRead(va, size)` (R261): `k` receives the word that holds the address. -/
def readMem (va : Word) (size : Nat) (s : State) (k : Word → State → Result) : Result :=
  memoryOp s fun s => if misaligned va size then raise (.adel va) s else (s.load va).andThen k

/-- `MemWrite` (R262) of the lanes `be` of `data`. -/
def writeMem (va : Word) (size : Nat) (data : Word) (be : BitVec 4) (s : State) : Result :=
  memoryOp s fun s => if misaligned va size then raise (.ades va) s
    else (s.store va data be).andThen fun _ s' => done s'

/-- A load into a general register, one instruction late (R263). -/
def loadReg (rt : Reg) (va : Word) (size : Nat) (f : Word → Word) (s : State) : Result :=
  readMem va size s fun w s' => done (s'.setGprLate rt (f w) true)

/-- `lb` (R265). -/
def execLb (rt : Reg) (offset : BitVec 16) (base : Reg) (s : State) : Result :=
  let va := s.effAddr base offset
  loadReg rt va 1 (fun w => (laneByte w (s.byteLane va)).signExtend 32) s

/-- `lbu` (R266). -/
def execLbu (rt : Reg) (offset : BitVec 16) (base : Reg) (s : State) : Result :=
  let va := s.effAddr base offset
  loadReg rt va 1 (fun w => (laneByte w (s.byteLane va)).setWidth 32) s

/-- `lh` (R267). -/
def execLh (rt : Reg) (offset : BitVec 16) (base : Reg) (s : State) : Result :=
  let va := s.effAddr base offset
  loadReg rt va 2 (fun w => (laneHalf w (s.halfLane va)).signExtend 32) s

/-- `lhu` (R268). -/
def execLhu (rt : Reg) (offset : BitVec 16) (base : Reg) (s : State) : Result :=
  let va := s.effAddr base offset
  loadReg rt va 2 (fun w => (laneHalf w (s.halfLane va)).setWidth 32) s

/-- `lw` (R269). -/
def execLw (rt : Reg) (offset : BitVec 16) (base : Reg) (s : State) : Result :=
  let va := s.effAddr base offset
  loadReg rt va 4 id s

/-- `lwl` (R276). -/
def execLwl (rt : Reg) (offset : BitVec 16) (base : Reg) (s : State) : Result :=
  let va := s.effAddr base offset
  loadReg rt va 1 (fun w => loadLeft w (s.mergeSrc rt) (s.byteLane va)) s

/-- `lwr` (R277). -/
def execLwr (rt : Reg) (offset : BitVec 16) (base : Reg) (s : State) : Result :=
  let va := s.effAddr base offset
  loadReg rt va 1 (fun w => loadRight w (s.mergeSrc rt) (s.byteLane va)) s

/-- `sb` (R270). -/
def execSb (rt : Reg) (offset : BitVec 16) (base : Reg) (s : State) : Result :=
  let va := s.effAddr base offset
  let b := s.byteLane va
  writeMem va 1 (s.src rt <<< (8 * b)) (lanes b 1) s

/-- `sh` (R271). -/
def execSh (rt : Reg) (offset : BitVec 16) (base : Reg) (s : State) : Result :=
  let va := s.effAddr base offset
  let b := s.halfLane va
  writeMem va 2 (s.src rt <<< (8 * b)) (lanes b 2) s

/-- `sw` (R272). -/
def execSw (rt : Reg) (offset : BitVec 16) (base : Reg) (s : State) : Result :=
  let va := s.effAddr base offset
  writeMem va 4 (s.src rt) (lanes 0 4) s

/-- `swl` (R278). -/
def execSwl (rt : Reg) (offset : BitVec 16) (base : Reg) (s : State) : Result :=
  let va := s.effAddr base offset
  let b := s.byteLane va
  writeMem va 1 (storeLeft (s.src rt) b) (lanes 0 (b + 1)) s

/-- `swr` (R279). -/
def execSwr (rt : Reg) (offset : BitVec 16) (base : Reg) (s : State) : Result :=
  let va := s.effAddr base offset
  let b := s.byteLane va
  writeMem va 1 (storeRight (s.src rt) b) (lanes b (4 - b)) s

end Sys2Proof.Machine
end

