-- ==== Sys2Proof/Machine/Coprocessor.lean ====
section
/-! DEFINITION. Coprocessors 2 and 3, which no member has (45_system_cp0_tlb.md R352-R360, D24): what their
instructions do when SR enables them. -/

namespace Sys2Proof.Machine

/-- A move from an absent coprocessor: the value is open (R353, R355). -/
def moveFromAbsent (z : BitVec 2) (rt : Reg) (s : State) : Result :=
  withCop z s (done (s.setGprLate rt (s.free .coprocessor) false))

/-- A move to an absent coprocessor, or an operation of it: nothing (R354, R356, R359). -/
def discardToAbsent (z : BitVec 2) (s : State) : Result := withCop z s (done s)

/-- A load to an absent coprocessor: the read is made and the word discarded (R357). -/
def loadToAbsent (z : BitVec 2) (va : Word) (s : State) : Result :=
  withCop z s (readMem va 4 s fun _ s' => done s')

/-- A store from an absent coprocessor: an open word (R358). -/
def storeFromAbsent (z : BitVec 2) (va : Word) (s : State) : Result :=
  withCop z s (writeMem va 4 (s.free .coprocessor) (lanes 0 4) s)

/-- `mfc2` (R353). -/
def execMfc2 (rt _rd : Reg) (s : State) : Result := moveFromAbsent 2 rt s

/-- `cfc2` (R355). -/
def execCfc2 (rt _rd : Reg) (s : State) : Result := moveFromAbsent 2 rt s

/-- `mtc2` (R354). -/
def execMtc2 (_rt _rd : Reg) (s : State) : Result := discardToAbsent 2 s

/-- `ctc2` (R356). -/
def execCtc2 (_rt _rd : Reg) (s : State) : Result := discardToAbsent 2 s

/-- `cop2` (R359). -/
def execCop2 (_cofun : BitVec 25) (s : State) : Result := discardToAbsent 2 s

/-- `mfc3`: reserved, whatever CU3 says (R360). -/
def execMfc3 (_rt _rd : Reg) (s : State) : Result := raise .ri s

/-- `cfc3` (R355). -/
def execCfc3 (rt _rd : Reg) (s : State) : Result := moveFromAbsent 3 rt s

/-- `mtc3` (R354). -/
def execMtc3 (_rt _rd : Reg) (s : State) : Result := discardToAbsent 3 s

/-- `ctc3` (R356). -/
def execCtc3 (_rt _rd : Reg) (s : State) : Result := discardToAbsent 3 s

/-- `cop3` (R359). -/
def execCop3 (_cofun : BitVec 25) (s : State) : Result := discardToAbsent 3 s

/-- `lwc2` (R357). -/
def execLwc2 (_rt : Reg) (offset : BitVec 16) (base : Reg) (s : State) : Result :=
  loadToAbsent 2 (s.effAddr base offset) s

/-- `lwc3` (R357). -/
def execLwc3 (_rt : Reg) (offset : BitVec 16) (base : Reg) (s : State) : Result :=
  loadToAbsent 3 (s.effAddr base offset) s

/-- `swc2` (R358). -/
def execSwc2 (_rt : Reg) (offset : BitVec 16) (base : Reg) (s : State) : Result :=
  storeFromAbsent 2 (s.effAddr base offset) s

/-- `swc3`: reserved, whatever CU3 says (R360). -/
def execSwc3 (_rt : Reg) (_offset : BitVec 16) (_base : Reg) (s : State) : Result := raise .ri s

end Sys2Proof.Machine
end

