-- ==== Sys2Proof/Machine/Float.lean ====
section
/-! DEFINITION. IEEE 754 arithmetic as the FPA delivers it (46_coprocessor_fpa.md R373, R378, R379, R385-R410): exact
integer arithmetic, then one rounding. Each operation answers whether the hardware must decline it, must perform it,
or may do either (R379 (a), (b), (c)). -/

namespace Sys2Proof.Machine

/-- A binary floating-point format: bits of mantissa field and of exponent field (R373). -/
structure FpFormat where
  mant : Nat
  expo : Nat
  deriving DecidableEq, Repr

def single : FpFormat := ⟨23, 8⟩
def double : FpFormat := ⟨52, 11⟩

/-- The exponent bias: 127 and 1023. -/
def FpFormat.bias (f : FpFormat) : Nat := 2 ^ (f.expo - 1) - 1

/-- The exponent field of all ones. -/
def FpFormat.maxField (f : FpFormat) : Nat := 2 ^ f.expo - 1

/-- The least and greatest exponents of normalized numbers. -/
def FpFormat.emin (f : FpFormat) : Int := 1 - f.bias
def FpFormat.emax (f : FpFormat) : Int := f.bias

/-- What a register holds (R373). The value of `finite` is `(-1)^neg * mant * 2^exp`; a zero has `mant` = 0. -/
inductive Fp where
  | finite (neg : Bool) (mant : Nat) (exp : Int)
  | denormal
  | inf (neg : Bool)
  | quietNan
  | signallingNan
  deriving DecidableEq, Repr

/-- Read a format's value; for MIPS the top mantissa bit of a NaN says signalling (R373). -/
def FpFormat.unpack (f : FpFormat) (v : BitVec 64) : Fp :=
  let m := v.toNat % 2 ^ f.mant
  let e := v.toNat / 2 ^ f.mant % 2 ^ f.expo
  let neg := v.toNat / 2 ^ (f.mant + f.expo) % 2 == 1
  if e = 0 then (if m = 0 then .finite neg 0 0 else .denormal)
  else if e = f.maxField then
    (if m = 0 then .inf neg else if m / 2 ^ (f.mant - 1) = 1 then .signallingNan else .quietNan)
  else .finite neg (2 ^ f.mant + m) ((e : Int) - f.bias - f.mant)

/-- The bits of a sign, exponent field and mantissa field. -/
def FpFormat.pack (f : FpFormat) (neg : Bool) (e m : Nat) : BitVec 64 :=
  BitVec.ofNat 64 ((if neg then 2 ^ (f.mant + f.expo) else 0) + e * 2 ^ f.mant + m)

def FpFormat.zero (f : FpFormat) (neg : Bool) : BitVec 64 := f.pack neg 0 0
def FpFormat.infinity (f : FpFormat) (neg : Bool) : BitVec 64 := f.pack neg f.maxField 0
def FpFormat.largest (f : FpFormat) (neg : Bool) : BitVec 64 := f.pack neg (f.maxField - 1) (2 ^ f.mant - 1)
def FpFormat.smallest (f : FpFormat) (neg : Bool) : BitVec 64 := f.pack neg 1 0

/-! ## Exceptions and outcomes -/

/-- The five IEEE exceptions in the order of FCR31's fields (10_state.md R75). -/
def excV : BitVec 5 := 16
def excZ : BitVec 5 := 8
def excO : BitVec 5 := 4
def excU : BitVec 5 := 2
def excI : BitVec 5 := 1
def excNone : BitVec 5 := 0

/-- R379: the hardware must decline, must perform, or may decline. -/
inductive FpOutcome where
  | decline
  | must (result : BitVec 64) (exc : BitVec 5)
  | may (result : BitVec 64) (exc : BitVec 5)
  deriving DecidableEq, Repr

/-- An invalid operation: (c) with Enables.V set, else (a) (R379). The result is not delivered. -/
def invalid (vEnabled : Bool) : FpOutcome := if vEnabled then .may 0 excV else .decline

/-! ## Rounding (10_state.md R76, R378) -/

/-- Whether the kept part is incremented: `below`, `half`, `above` compare what is dropped with half a unit. -/
def roundsUp (rm : BitVec 2) (neg odd : Bool) (dropped half : Nat) (sticky : Bool) : Bool :=
  if dropped = 0 ∧ sticky = false then false
  else match rm.toNat with
    | 0 => decide (half < dropped) || (dropped == half && (sticky || odd))
    | 1 => false
    | 2 => !neg
    | _ => neg

/-- An integer with `shift` low bits dropped and rounded; `sticky` is set when the exact value is a little more. -/
def roundShift (rm : BitVec 2) (neg : Bool) (m shift : Nat) (sticky : Bool) : Nat :=
  let q := m / 2 ^ shift
  if roundsUp rm neg (q % 2 == 1) (2 * (m % 2 ^ shift)) (2 ^ shift) sticky then q + 1 else q

/-- The result of an overflow in each rounding mode (R378). -/
def FpFormat.overflow (f : FpFormat) (rm : BitVec 2) (neg : Bool) : BitVec 64 :=
  match rm.toNat with
  | 0 => f.infinity neg
  | 1 => f.largest neg
  | 2 => if neg then f.largest true else f.infinity false
  | _ => if neg then f.infinity true else f.largest false

/-- Round the exact magnitude `(m + δ) * 2^e`, `m` positive, `δ` below 1 and not 0 exactly when `sticky`; with `sticky`
`m` has at least two bits more than the format. `tiny` is the open point of underflow detection (R379 (c)). -/
def FpFormat.round (f : FpFormat) (rm : BitVec 2) (tiny : Bool) (neg : Bool) (m : Nat) (e : Int) (sticky : Bool) :
    FpOutcome :=
  let len := Nat.log2 m + 1
  let top : Int := e + len - 1
  -- the significand with `f.mant + 1` bits, and the exponent of its leading bit
  let drop := len - (f.mant + 1)
  let q := roundShift rm neg m drop sticky * 2 ^ (f.mant + 1 - len)
  let inexact := m % 2 ^ drop != 0 || sticky
  let exc := if inexact then excI else excNone
  let carried := q == 2 ^ (f.mant + 1)
  let expTop := if carried then top + 1 else top
  let frac := if carried then 0 else q - 2 ^ f.mant
  if top < f.emin then
    -- below the normalized numbers: only the value that rounds up to the smallest one is not declined
    let bits := (f.emin - f.mant - e).toNat
    if roundShift rm neg m bits sticky = 2 ^ f.mant then
      .may (f.smallest neg) (excI ||| (if expTop < f.emin || tiny then excU else excNone))
    else .decline
  else if f.emax < expTop then .must (f.overflow rm neg) (excO ||| excI)
  else .must (f.pack neg (expTop + f.bias).toNat frac) exc

/-- Round an exact integer multiple of a power of two; an exact zero takes the sign given. -/
def FpFormat.roundExact (f : FpFormat) (rm : BitVec 2) (tiny : Bool) (zeroNeg : Bool) (v : Int) (e : Int) :
    FpOutcome :=
  if v = 0 then .must (f.zero zeroNeg) excNone
  else f.round rm tiny (decide (v < 0)) v.natAbs e false

/-! ## Operands the hardware does not take -/

/-- The operands R379 (a) and (c) single out before the arithmetic; `none` when both are numbers. -/
def specialOperands (vEnabled : Bool) (a b : Fp) : Option FpOutcome :=
  if a = .denormal ∨ b = .denormal then some .decline
  else if a = .signallingNan ∨ b = .signallingNan then some (invalid vEnabled)
  else if a = .quietNan ∨ b = .quietNan then some .decline
  else none

/-- A magnitude as a signed integer. -/
def signed (neg : Bool) (m : Nat) : Int := if neg then -(m : Int) else m

/-! ## The operations -/

/-- Addition (R385). -/
def FpFormat.add (f : FpFormat) (rm : BitVec 2) (tiny vEnabled : Bool) (a b : Fp) : FpOutcome :=
  match specialOperands vEnabled a b with
  | some o => o
  | none =>
    match a, b with
    | .finite na ma ea, .finite nb mb eb =>
      let e := min ea eb
      let v := signed na ma * 2 ^ (ea - e).toNat + signed nb mb * 2 ^ (eb - e).toNat
      f.roundExact rm tiny (if ma = 0 ∧ mb = 0 ∧ na = nb then na else rm == 3) v e
    | .inf na, .inf nb => if na = nb then .may (f.infinity na) excNone else invalid vEnabled
    | .inf n, _ => .may (f.infinity n) excNone
    | _, .inf n => .may (f.infinity n) excNone
    | _, _ => .decline

/-- The same value with its sign inverted. -/
def Fp.negate : Fp → Fp
  | .finite n m e => .finite (!n) m e
  | .inf n => .inf (!n)
  | .denormal => .denormal
  | .quietNan => .quietNan
  | .signallingNan => .signallingNan

/-- Subtraction (R387). -/
def FpFormat.sub (f : FpFormat) (rm : BitVec 2) (tiny vEnabled : Bool) (a b : Fp) : FpOutcome :=
  f.add rm tiny vEnabled a b.negate

/-- Multiplication (R389). -/
def FpFormat.mul (f : FpFormat) (rm : BitVec 2) (tiny vEnabled : Bool) (a b : Fp) : FpOutcome :=
  match specialOperands vEnabled a b with
  | some o => o
  | none =>
    match a, b with
    | .finite na ma ea, .finite nb mb eb =>
      f.roundExact rm tiny (xor na nb) (signed na ma * signed nb mb) (ea + eb)
    | .inf na, .inf nb => .may (f.infinity (xor na nb)) excNone
    | .inf na, .finite nb m _ => if m = 0 then invalid vEnabled else .may (f.infinity (xor na nb)) excNone
    | .finite na m _, .inf nb => if m = 0 then invalid vEnabled else .may (f.infinity (xor na nb)) excNone
    | _, _ => .decline

/-- Division (R391). -/
def FpFormat.div (f : FpFormat) (rm : BitVec 2) (tiny vEnabled : Bool) (a b : Fp) : FpOutcome :=
  match specialOperands vEnabled a b with
  | some o => o
  | none =>
    match a, b with
    | .finite na ma ea, .finite nb mb eb =>
      if mb = 0 then (if ma = 0 then invalid vEnabled else .may (f.infinity (xor na nb)) excZ)
      else if ma = 0 then .must (f.zero (xor na nb)) excNone
      else
        let scale := 2 * f.mant + 4
        let n := ma * 2 ^ scale
        f.round rm tiny (xor na nb) (n / mb) (ea - eb - scale) (n % mb != 0)
    | .inf _, .inf _ => invalid vEnabled
    | .inf na, .finite nb _ _ => .may (f.infinity (xor na nb)) excNone
    | .finite na _ _, .inf nb => .may (f.zero (xor na nb)) excNone
    | _, _ => .decline

/-- `abs` and `neg` (R393, R395): the sign bit only; any NaN is an invalid operation, a denormal is declined. -/
def signOperation (vEnabled : Bool) (a : Fp) (result : BitVec 64) : FpOutcome :=
  match a with
  | .denormal => .decline
  | .quietNan | .signallingNan => invalid vEnabled
  | .inf _ => .may result excNone
  | .finite _ _ _ => .must result excNone

/-- `cvt.s` and `cvt.d` from a floating-point format (R401, R403). -/
def FpFormat.convert (f : FpFormat) (rm : BitVec 2) (tiny vEnabled : Bool) (a : Fp) : FpOutcome :=
  match specialOperands vEnabled a (.finite false 0 0) with
  | some o => o
  | none =>
    match a with
    | .finite n m e => f.roundExact rm tiny n (signed n m) e
    | .inf n => .may (f.infinity n) excNone
    | _ => .decline

/-- `cvt.s.w` and `cvt.d.w` (R402, R404). -/
def FpFormat.fromInt (f : FpFormat) (rm : BitVec 2) (v : Int) : FpOutcome := f.roundExact rm false false v 0

/-- `cvt.w.s` and `cvt.w.d` (R405): an infinity, a NaN, a denormal or a result outside 32 bits is declined. -/
def toInt32 (rm : BitVec 2) (a : Fp) : FpOutcome :=
  match a with
  | .finite neg m e =>
    let n := if e < 0 then roundShift rm neg m (-e).toNat false else m * 2 ^ e.toNat
    let v := signed neg n
    let exact := e ≥ 0 || m % 2 ^ (-e).toNat == 0
    if -(2 ^ 31) ≤ v ∧ v ≤ 2 ^ 31 - 1 then
      .must ((BitVec.ofInt 32 v).setWidth 64) (if exact then excNone else excI)
    else .decline
  | _ => .decline

/-! ## Comparison (R410) -/

/-- `a < b` of two numbers; infinities are ordered. -/
def Fp.lt : Fp → Fp → Bool
  | .finite na ma ea, .finite nb mb eb =>
    decide (signed na ma * 2 ^ (ea - min ea eb).toNat < signed nb mb * 2 ^ (eb - min ea eb).toNat)
  | .inf n, .inf n' => n && !n'
  | .inf n, .finite _ _ _ => n
  | .finite _ _ _, .inf n => !n
  | _, _ => false

/-- `a = b` of two numbers; the sign of zero is ignored. -/
def Fp.eq : Fp → Fp → Bool
  | .finite na ma ea, .finite nb mb eb =>
    decide (signed na ma * 2 ^ (ea - min ea eb).toNat = signed nb mb * 2 ^ (eb - min ea eb).toNat)
  | .inf n, .inf n' => n == n'
  | _, _ => false

/-- Neither operand a NaN. -/
def Fp.isNan : Fp → Bool
  | .quietNan | .signallingNan => true
  | .finite _ _ _ | .denormal | .inf _ => false

/-- The relation of `c.cond` as 1 or 0: bit 2 less, bit 1 equal, bit 0 unordered (R410). -/
def compareHolds (cond : BitVec 4) (a b : Fp) : Bool :=
  (cond.getLsbD 2 && a.lt b) || (cond.getLsbD 1 && a.eq b) || (cond.getLsbD 0 && (a.isNan || b.isNan))

/-- `c.cond` (R410): bit 3 of the condition, and nothing else, makes unordered operands an invalid operation. DEDUCED (log
entry 54): a signalling NaN is no exception to this, though R378 calls any operation on one invalid. -/
def compareOutcome (cond : BitVec 4) (vEnabled : Bool) (a b : Fp) : FpOutcome :=
  let c : BitVec 64 := if compareHolds cond a b then 1 else 0
  if a = .denormal ∨ b = .denormal then .decline
  else if a.isNan || b.isNan then (if cond.getLsbD 3 then invalid vEnabled else .decline)
  else match a, b with
    | .finite _ _ _, .finite _ _ _ => .must c excNone
    | _, _ => .may c excNone

end Sys2Proof.Machine
end

