-- ==== Sys2Proof/Machine/Cp0.lean ====
section
/-! DEFINITION. The coprocessor 0 registers as `mfc0` reads and `mtc0` writes them (10_state.md R26-R69,
45_system_cp0_tlb.md R336, R337). -/

namespace Sys2Proof.Machine

/-! ## Registers that move with the clock (log entries 13, 14) -/

/-- Random after any number of clocks: 8 to 63 (R68). -/
def State.tickRandom (s : State) : State :=
  { s with cp0 := { s.cp0 with random := BitVec.ofNat 6 (8 + (s.free .random).toNat % 56) } }

/-- Count after `k` clocks, and whether it reached Compare and wrapped (R53): from at most Compare it runs in the
cycle 0 .. Compare; from above it first runs through the top of 24 bits. -/
def countAfter (count compare k : Nat) : Nat × Bool :=
  if count ≤ compare then ((count + k) % (compare + 1), decide (compare < count + k))
  else if count + k < 2 ^ 24 then (count + k, false)
  else ((count + k - 2 ^ 24) % (compare + 1), decide (compare < count + k - 2 ^ 24))

/-- BusCtrl.TC set: Tc* is held until Compare is written (R55; within the window of R599 the earlier bit or the new). -/
def State.tcLevel (s : State) : Bool := (s.cp0View 2 3 s.cp0.busCtrl).getLsbD 14

/-- Compare as Count's wrap sees it: within the window of R599 the earlier value or the new. -/
def State.compareView (s : State) : BitVec 24 := (s.cp0View 11 3 (s.cp0.compare.setWidth 32)).setWidth 24

/-- The R3041's timer after the clocks since it was last looked at (R53, R55). -/
def State.tickCount (s : State) (u : ClockUse) : State :=
  let r := countAfter s.cp0.count.toNat s.compareView.toNat (Config.clocks u s.draws)
  { s with
    cp0 := { s.cp0 with count := BitVec.ofNat 24 r.1, tcOut := s.cp0.tcOut || (r.2 && s.tcLevel) }
    pipe := { s.pipe with
      late := s.pipe.late.map fun l => if l.reg = 9 then { l with old := s.free .count &&& 0xFFFFFF } else l } }

/-- The clock-driven register an access to register `n` looks at is brought up to date. -/
def State.tick (s : State) (n : Reg) : State :=
  match n.toNat with
  | 1 => if s.cfg.hasMmu then s.tickRandom else s
  | 2 | 9 | 11 => if s.cfg.is3041 then s.tickCount .access else s
  | _ => s

/-- While a write of BusCtrl or Compare is in its window, the timer runs instruction by instruction, so that a wrap in the
window sees the earlier or the new setting (70_reset_and_hazards.md R599, log entry 14). -/
def State.settleTimer (s : State) : State :=
  if s.cfg.is3041 && !((s.recent 2 3).isEmpty && (s.recent 11 3).isEmpty) then s.tickCount .window else s

/-! ## Reading -/

/-- The stored contents of a register number on this member (R26); a number the member lacks is open (D11). -/
def State.cp0Stored (s : State) (n : Reg) : Word :=
  match n.toNat with
  | 0 => if s.cfg.hasMmu then s.cp0.index else s.free .absentCp0
  | 1 => if s.cfg.hasMmu then s.cp0.random.setWidth 32 <<< 8 else s.free .absentCp0
  | 2 => if s.cfg.hasMmu then s.cp0.entryLo else if s.cfg.is3041 then s.cp0.busCtrl else s.free .absentCp0
  | 3 => if s.cfg.is3041 || s.cfg.hasConfig7181 then s.cp0.config else s.free .absentCp0
  | 4 => if s.cfg.hasMmu then s.cp0.context else s.free .absentCp0
  | 8 => s.cp0.badVaddr
  | 9 => if s.cfg.is3041 then s.cp0.count.setWidth 32 else s.free .absentCp0
  | 10 => if s.cfg.hasMmu then s.cp0.entryHi else if s.cfg.is3041 then s.cp0.portSize else s.free .absentCp0
  | 11 => if s.cfg.is3041 then s.cp0.compare.setWidth 32 else s.free .absentCp0
  | 12 => s.cp0.sr
  | 13 => s.cp0.cause
  | 14 => s.cp0.epc
  | 15 => s.cfg.prid
  | _ => s.free .absentCp0

/-- How long after an `mtc0` a read-back may still give the earlier value: the full window where the register has
side effects, else one instruction (70_reset_and_hazards.md R598, R599, R605). Number 2 is EntryLo, without side effects, on an
"E" part. -/
def readBackWindow (c : Config) (n : Reg) : Nat :=
  match n.toNat with
  | 3 | 10 | 11 | 12 | 13 => 3
  | 2 => if c.hasMmu then 1 else 3
  | _ => 1

/-- The word `mfc0` delivers: the hardware bits of Cause follow the inputs (R48), the unused bits of Random are open
(R68). -/
def State.cp0Read (s : State) (n : Reg) : Word :=
  let v := s.cp0ReadBack n (s.cp0Stored n)
  match n.toNat with
  | 1 => if s.cfg.hasMmu then mergeBits 0x3F00 v (s.free .reservedRead) else v
  | 13 => v ||| s.ipBits
  | _ => v

/-! ## Writing -/

/-- SR after `mtc0` (R44): TS and CM stay, a written PE clears PE, the "0" fields stay zero. -/
def srWrite (old v : Word) : Word :=
  mergeBits 0xF247FF3F v (old &&& (if v.getLsbD 20 then 0x00280000 else 0x00380000))

/-- Config after `mtc0` on the R3071 and R3081 (R56-R61); its reserved bits read back open. -/
def State.config7181Write (s : State) (v : Word) : Word :=
  mergeBits (if s.cfg.hasFpa then 0xFF800000 else 0xE3800000) v (s.free .reservedWrite)

/-- Config after `mtc0` on the R3041 (R62). -/
def config3041Write (v : Word) : Word := (v &&& 0xA0080000) ||| 0x40000000

/-- The Lock bit of Config or BusCtrl, which ends writing (R57, R62, R63). -/
def State.locked (s : State) (n : Reg) (cur : Word) : Bool := (s.cp0View n 3 cur).getLsbD 31

/-- The new contents of the registers when `mtc0` writes `v` to register `n` (45_system_cp0_tlb.md R337). DESIGN CHOICE
(log entry 14): Tc* asserted in level mode stays asserted when BusCtrl.TC is cleared, and in pulse mode a write of Compare
does not clear it. -/
def State.cp0Write (s : State) (n : Reg) (v : Word) : Cp0 :=
  let c := s.cp0
  match n.toNat with
  | 0 => if s.cfg.hasMmu then { c with index := mergeBits 0x3F00 v (s.free .reservedWrite) } else c
  | 2 =>
    if s.cfg.hasMmu then { c with entryLo := v &&& 0xFFFFFF00 }
    else if s.cfg.is3041 && !s.locked 2 c.busCtrl then { c with busCtrl := v }
    else c
  | 3 =>
    if s.locked 3 c.config then c
    else if s.cfg.is3041 then { c with config := config3041Write v }
    else if s.cfg.hasConfig7181 then { c with config := s.config7181Write v }
    else c
  | 4 => if s.cfg.hasMmu then { c with context := mergeBits 0xFFE00000 v c.context } else c
  | 8 => { c with badVaddr := s.free .latchWrite }
  | 9 => if s.cfg.is3041 then { c with count := v.setWidth 24 } else c
  | 10 =>
    if s.cfg.hasMmu then { c with entryHi := v &&& 0xFFFFFFC0 }
    else if s.cfg.is3041 then { c with portSize := v }
    else c
  | 11 =>
    if s.cfg.is3041 then { c with compare := v.setWidth 24, tcOut := c.tcOut && !s.tcLevel } else c
  | 12 => { c with sr := srWrite c.sr v }
  | 13 => { c with cause := mergeBits 0x300 v c.cause }
  | 14 => { c with epc := s.free .latchWrite }
  | _ => c

/-- Loading EntryHi flushes the micro-TLB (R65, R71). -/
def State.flushMicroTlb (s : State) : State := { s with utlb := [] }

/-- `CP0write(n, v)`: the clock-driven registers brought up to date, the write, its window, the flush. -/
def State.moveToCp0 (s : State) (n : Reg) (v : Word) : State :=
  let t := s.tick n
  let old := t.cp0Stored n
  let w := { t with cp0 := t.cp0Write n v }
  let w := w.noteCp0 n old (readBackWindow s.cfg n) 3
  if n = 10 ∧ s.cfg.hasMmu then w.flushMicroTlb else w

/-! ## The TLB instructions' work (45_system_cp0_tlb.md R343-R349) -/

/-- The entry number in Index, inside the one-instruction window of R600 (b) either way. -/
def State.indexView (s : State) : BitVec 6 := (s.cp0View 0 1 s.cp0.index).extractLsb' 8 6

/-- The entry EntryHi and EntryLo hold. -/
def State.entryView (s : State) : TlbEntry := ⟨s.cp0View 10 1 s.cp0.entryHi, s.cp0View 2 1 s.cp0.entryLo⟩

/-- Write a TLB entry; translations see it after the windows of R600. -/
def State.writeTlb (s : State) (i : BitVec 6) (e : TlbEntry) : State :=
  { s with
    tlb := s.tlb.set i.toNat e i.isLt
    pipe := { s.pipe with tlbLate := ⟨i, s.tlb[i.toNat]'i.isLt, 0⟩ :: s.pipe.tlbLate } }

/-- `tlbr`: EntryHi and EntryLo take an entry; their "0" fields read zero. Only an `mfc0` directly after it may miss them
(70_reset_and_hazards.md R600 (b), log entry 17). -/
def State.readTlb (s : State) (i : BitVec 6) : State :=
  let e := s.tlb[i.toNat]'i.isLt
  let t := { s with cp0 := { s.cp0 with entryHi := e.hi &&& 0xFFFFFFC0, entryLo := e.lo &&& 0xFFFFFF00 } }
  ((t.noteCp0 10 s.cp0.entryHi 1 0).noteCp0 2 s.cp0.entryLo 1 0).flushMicroTlb

/-- Index after `tlbp` finds entry `i`. -/
def indexOf (i : BitVec 6) : Word := i.setWidth 32 <<< 8

/-- `tlbp` (R347): Index from the match; more than one match is the TLB shutdown, with Index undefined (D30). DESIGN CHOICE
(log entry 19): directly after `tlbwi` or `tlbwr` it finds the earlier or the new entry, as a data access does. -/
def State.probeTlb (s : State) : State :=
  let key := s.entryView
  let set (t : State) (v : Word) : State := { t with cp0 := { t.cp0 with index := v } }.noteCp0 0 s.cp0.index 1 0
  if s.tlbShutDown then set s (s.free .tlbIndex)
  else match s.tlbMatches 1 key.vpn key.asid with
    | [] => set s 0x80000000
    | [i] => set s (indexOf i)
    | _ => set (s.updateSr fun sr => setBit sr 21 true) (s.free .tlbIndex)

/-- A TLB instruction on a part without a TLB: Index, EntryHi and EntryLo take any value (U6, log entry 46). -/
def State.tlbUndefined (s : State) : State :=
  { s with cp0 := { s.cp0 with
      index := s.free .tlbIndex
      entryHi := s.free .tlbHi &&& 0xFFFFFFC0
      entryLo := s.free .tlbLo &&& 0xFFFFFF00 } }

end Sys2Proof.Machine
end

