-- ==== Sys2Proof/Machine/System.lean ====
section
/-! DEFINITION. Traps, the CP0 moves, `rfe`, the TLB instructions, the words not valid for coprocessor 0
(45_system_cp0_tlb.md R330-R349). -/

namespace Sys2Proof.Machine

/-- `syscall` (R330). The code is not looked at. -/
def execSyscall (_code : BitVec 20) (s : State) : Result := raise .sys s

/-- `break` (R331). -/
def execBreak (_code : BitVec 20) (s : State) : Result := raise .bp s

/-- `mfc0` (R336). -/
def execMfc0 (rt rd : Reg) (s : State) : Result :=
  withCop 0 s (done ((s.tick rd).setGprLate rt ((s.tick rd).cp0Read rd) false))

/-- `mtc0` (R337). -/
def execMtc0 (rt rd : Reg) (s : State) : Result :=
  withCop 0 s (done (s.moveToCp0 rd (s.src rt)))

/-- `cfc0`: not valid for CP0 (R339). -/
def execCfc0 (_rt _rd : Reg) (s : State) : Result := withCop 0 s (raise .ri s)

/-- `ctc0`: not valid for CP0 (R339). -/
def execCtc0 (_rt _rd : Reg) (s : State) : Result := withCop 0 s (raise .ri s)

/-- `lwc0`: not valid for CP0 (R339). -/
def execLwc0 (_rt : Reg) (_offset : BitVec 16) (_base : Reg) (s : State) : Result := raise .ri s

/-- `swc0`: not valid for CP0 (R339). -/
def execSwc0 (_rt : Reg) (_offset : BitVec 16) (_base : Reg) (s : State) : Result := raise .ri s

/-- `rfe` (R341). Directly after a load or store it has no meaning where it changes the mode (log entry 22). -/
def execRfe (s : State) : Result :=
  withCop 0 s (
    if s.pipe.prev = .memory ∧ s.returnFromException.userMode ≠ s.userMode then .fault .memRefBeforeRfe
    else done s.returnFromException)

/-- The TLB instructions need a TLB (R349). -/
def tlbOp (s : State) (k : State) : Result :=
  withCop 0 s (done (if s.cfg.hasMmu then k else s.tlbUndefined))

/-- `tlbr` (R344). -/
def execTlbr (s : State) : Result := tlbOp s (s.readTlb s.indexView)

/-- `tlbwi` (R345). -/
def execTlbwi (s : State) : Result := tlbOp s (s.writeTlb s.indexView s.entryView)

/-- `tlbwr` (R346): the entry is a draw from 8 to 63. -/
def execTlbwr (s : State) : Result := tlbOp s (s.tickRandom.writeTlb s.tickRandom.cp0.random s.entryView)

/-- `tlbp` (R347); the next instruction must not be a load or store. -/
def execTlbp (s : State) : Result :=
  let t := { s with pipe := { s.pipe with this := .tlbp } }
  withCop 0 s (done (if t.cfg.hasMmu then t.probeTlb else t.tlbUndefined))

end Sys2Proof.Machine
end

