-- ==== Sys2Proof/WellFormed.lean ====
section
/-! DEFINITION. The operand restrictions the spec puts on an instruction (44_branch_jump.md R302, R312, R313, R317;
46_coprocessor_fpa.md R376, R428, R429). The decoder accepts the words that break them, and the machine runs them. -/

namespace Sys2Proof

/-- An FP register a computational instruction may name (46_coprocessor_fpa.md R376). -/
def evenSpecifier (r : Reg) : Bool := !r.getLsbD 0

/-- A coprocessor 1 control register that is defined (R428, R429). -/
def definedFcr (r : Reg) : Bool := r == 0 || r == 31

/-- The software restrictions on operands. Fields of fixed width need no other check. -/
def WellFormed : Instr → Bool
  | .sll _ _ _ => true
  | .srl _ _ _ => true
  | .sra _ _ _ => true
  | .sllv _ _ _ => true
  | .srlv _ _ _ => true
  | .srav _ _ _ => true
  | .jr _ => true
  | .jalr rd rs => rd != rs
  | .syscall _ => true
  | .break_ _ => true
  | .mfhi _ => true
  | .mthi _ => true
  | .mflo _ => true
  | .mtlo _ => true
  | .mult _ _ => true
  | .multu _ _ => true
  | .div _ _ => true
  | .divu _ _ => true
  | .add _ _ _ => true
  | .addu _ _ _ => true
  | .sub _ _ _ => true
  | .subu _ _ _ => true
  | .and _ _ _ => true
  | .or _ _ _ => true
  | .xor _ _ _ => true
  | .nor _ _ _ => true
  | .slt _ _ _ => true
  | .sltu _ _ _ => true
  | .bltz _ _ => true
  | .bgez _ _ => true
  | .bltzal rs _ => rs != 31
  | .bgezal rs _ => rs != 31
  | .j _ => true
  | .jal _ => true
  | .beq _ _ _ => true
  | .bne _ _ _ => true
  | .blez _ _ => true
  | .bgtz _ _ => true
  | .addi _ _ _ => true
  | .addiu _ _ _ => true
  | .slti _ _ _ => true
  | .sltiu _ _ _ => true
  | .andi _ _ _ => true
  | .ori _ _ _ => true
  | .xori _ _ _ => true
  | .lui _ _ => true
  | .lb _ _ _ => true
  | .lh _ _ _ => true
  | .lwl _ _ _ => true
  | .lw _ _ _ => true
  | .lbu _ _ _ => true
  | .lhu _ _ _ => true
  | .lwr _ _ _ => true
  | .sb _ _ _ => true
  | .sh _ _ _ => true
  | .swl _ _ _ => true
  | .sw _ _ _ => true
  | .swr _ _ _ => true
  | .mfc0 _ _ => true
  | .mtc0 _ _ => true
  | .cfc0 _ _ => true
  | .ctc0 _ _ => true
  | .tlbr => true
  | .tlbwi => true
  | .tlbwr => true
  | .tlbp => true
  | .rfe => true
  | .bc0f _ => true
  | .bc0t _ => true
  | .bc1f _ => true
  | .bc1t _ => true
  | .bc2f _ => true
  | .bc2t _ => true
  | .bc3f _ => true
  | .bc3t _ => true
  | .mfc2 _ _ => true
  | .cfc2 _ _ => true
  | .mtc2 _ _ => true
  | .ctc2 _ _ => true
  | .cop2 _ => true
  | .mfc3 _ _ => true
  | .cfc3 _ _ => true
  | .mtc3 _ _ => true
  | .ctc3 _ _ => true
  | .cop3 _ => true
  | .mfc1 _ _ => true
  | .cfc1 _ fs => definedFcr fs
  | .mtc1 _ _ => true
  | .ctc1 _ fs => definedFcr fs
  | .lwc0 _ _ _ => true
  | .swc0 _ _ _ => true
  | .lwc1 _ _ _ => true
  | .swc1 _ _ _ => true
  | .lwc2 _ _ _ => true
  | .lwc3 _ _ _ => true
  | .swc2 _ _ _ => true
  | .swc3 _ _ _ => true
  | .addS fd fs ft => evenSpecifier fd && evenSpecifier fs && evenSpecifier ft
  | .addD fd fs ft => evenSpecifier fd && evenSpecifier fs && evenSpecifier ft
  | .subS fd fs ft => evenSpecifier fd && evenSpecifier fs && evenSpecifier ft
  | .subD fd fs ft => evenSpecifier fd && evenSpecifier fs && evenSpecifier ft
  | .mulS fd fs ft => evenSpecifier fd && evenSpecifier fs && evenSpecifier ft
  | .mulD fd fs ft => evenSpecifier fd && evenSpecifier fs && evenSpecifier ft
  | .divS fd fs ft => evenSpecifier fd && evenSpecifier fs && evenSpecifier ft
  | .divD fd fs ft => evenSpecifier fd && evenSpecifier fs && evenSpecifier ft
  | .absS fd fs => evenSpecifier fd && evenSpecifier fs
  | .absD fd fs => evenSpecifier fd && evenSpecifier fs
  | .negS fd fs => evenSpecifier fd && evenSpecifier fs
  | .negD fd fs => evenSpecifier fd && evenSpecifier fs
  | .movS fd fs => evenSpecifier fd && evenSpecifier fs
  | .movD fd fs => evenSpecifier fd && evenSpecifier fs
  | .cvtSD fd fs => evenSpecifier fd && evenSpecifier fs
  | .cvtSW fd fs => evenSpecifier fd && evenSpecifier fs
  | .cvtDS fd fs => evenSpecifier fd && evenSpecifier fs
  | .cvtDW fd fs => evenSpecifier fd && evenSpecifier fs
  | .cvtWS fd fs => evenSpecifier fd && evenSpecifier fs
  | .cvtWD fd fs => evenSpecifier fd && evenSpecifier fs
  | .cFS fs ft => evenSpecifier fs && evenSpecifier ft
  | .cFD fs ft => evenSpecifier fs && evenSpecifier ft
  | .cUnS fs ft => evenSpecifier fs && evenSpecifier ft
  | .cUnD fs ft => evenSpecifier fs && evenSpecifier ft
  | .cEqS fs ft => evenSpecifier fs && evenSpecifier ft
  | .cEqD fs ft => evenSpecifier fs && evenSpecifier ft
  | .cUeqS fs ft => evenSpecifier fs && evenSpecifier ft
  | .cUeqD fs ft => evenSpecifier fs && evenSpecifier ft
  | .cOltS fs ft => evenSpecifier fs && evenSpecifier ft
  | .cOltD fs ft => evenSpecifier fs && evenSpecifier ft
  | .cUltS fs ft => evenSpecifier fs && evenSpecifier ft
  | .cUltD fs ft => evenSpecifier fs && evenSpecifier ft
  | .cOleS fs ft => evenSpecifier fs && evenSpecifier ft
  | .cOleD fs ft => evenSpecifier fs && evenSpecifier ft
  | .cUleS fs ft => evenSpecifier fs && evenSpecifier ft
  | .cUleD fs ft => evenSpecifier fs && evenSpecifier ft
  | .cSfS fs ft => evenSpecifier fs && evenSpecifier ft
  | .cSfD fs ft => evenSpecifier fs && evenSpecifier ft
  | .cNgleS fs ft => evenSpecifier fs && evenSpecifier ft
  | .cNgleD fs ft => evenSpecifier fs && evenSpecifier ft
  | .cSeqS fs ft => evenSpecifier fs && evenSpecifier ft
  | .cSeqD fs ft => evenSpecifier fs && evenSpecifier ft
  | .cNglS fs ft => evenSpecifier fs && evenSpecifier ft
  | .cNglD fs ft => evenSpecifier fs && evenSpecifier ft
  | .cLtS fs ft => evenSpecifier fs && evenSpecifier ft
  | .cLtD fs ft => evenSpecifier fs && evenSpecifier ft
  | .cNgeS fs ft => evenSpecifier fs && evenSpecifier ft
  | .cNgeD fs ft => evenSpecifier fs && evenSpecifier ft
  | .cLeS fs ft => evenSpecifier fs && evenSpecifier ft
  | .cLeD fs ft => evenSpecifier fs && evenSpecifier ft
  | .cNgtS fs ft => evenSpecifier fs && evenSpecifier ft
  | .cNgtD fs ft => evenSpecifier fs && evenSpecifier ft

end Sys2Proof
end

