-- ==== Sys2Proof/Machine/Fpa.lean ====
section
/-! DEFINITION. Coprocessor 1, the floating-point accelerator (46_coprocessor_fpa.md R370-R434), and the words that are
no instruction (30_encoding.md R175, R381). -/

namespace Sys2Proof.Machine

/-! ## Formats and registers -/

/-- The format of a single or double operand. -/
def formatOf (isDouble : Bool) : FpFormat := if isDouble then double else single

/-- `ValueFPR` (R374). -/
def State.srcFp (s : State) (isDouble : Bool) (r : Reg) : BitVec 64 :=
  if isDouble then s.srcDouble r else s.srcSingle r

/-- `StoreFPR` (R375). -/
def State.storeFp (s : State) (isDouble : Bool) (r : Reg) (v : BitVec 64) : State :=
  if isDouble then s.storeDouble r v else s.storeSingle r v

/-! ## Completion of a computational instruction (R380) -/

/-- The coprocessor check (R370); without an FPA the CPU presumes the operation is executed elsewhere (R372). -/
def fpOp (s : State) (k : Result) : Result := withCop 1 s (if s.cfg.hasFpa then k else done s)

/-- The FPA requests its interrupt: taken at this instruction when it is enabled (R432); else the instruction ends,
with the Cause bits of `masked`. DESIGN CHOICE (log entry 39): directly after a `ctc1` the request is judged by the new
FCR31. -/
def fpTrap (s : State) (masked : Word) : Result :=
  if fpRequest s.fcr31 && s.fpInterruptEnabled then raise .int s else done { s with fcr31 := masked }

/-- The operation is declined: UnImp, Cause unreliable, the destination unchanged (R380, R381). -/
def fpDecline (s : State) : Result :=
  let f := setFcrCause s.fcr31 true ((s.free .fcrCause).setWidth 5)
  fpTrap { s with fcr31 := f } f

/-- Cause after a trap nobody takes: undefined, but for the request it keeps up (R380, R432, log entry 36). -/
def maskedCause (free exc enables : BitVec 5) : BitVec 5 := if free &&& enables = 0 then exc else free

/-- The operation is performed with the exceptions `exc`; `t` is the machine with the destination written. -/
def fpDeliver (exc : BitVec 5) (s t : State) : Result :=
  if exc &&& fcrEnables s.fcrView = 0 then
    done { t with fcr31 := orFcrFlags (setFcrCause t.fcr31 false exc) exc }
  else
    let flagged := orFcrFlags s.fcr31 (exc &&& (s.free .fcrFlags).setWidth 5)
    fpTrap { s with fcr31 := setFcrCause flagged false exc }
      (setFcrCause flagged false (maskedCause ((s.free .fcrCause).setWidth 5) exc (fcrEnables s.fcr31)))

/-- R379, R380: decline, or perform, or as `FPA_DECLINES` says. `t` writes the destination. -/
def fpComplete (word : Word) (a b : BitVec 64) (o : FpOutcome) (s : State) (t : BitVec 64 → State) : Result :=
  match o with
  | .decline => fpDecline s
  | .must r exc => fpDeliver exc s (t r)
  | .may r exc => if Config.fpaDeclines word a b s.fcrView then fpDecline s else fpDeliver exc s (t r)

/-- An odd specifier (R376, U13): the destination pair, Cause, UnImp and Flags take any value. DESIGN CHOICE (log entry 37):
when those values ask for the FP interrupt, the instruction is complete and the interrupt comes at the next boundary. -/
def fpOddSpecifier (fd : Reg) (s : State) : Result :=
  let t := (s.setFpr (pairEven fd) (s.free .fpOddSpecEven)).setFpr (pairOdd fd) (s.free .fpOddSpecOdd)
  done { t with fcr31 := mergeBits 0x0003F07C (s.free .fpOddSpecFcr) s.fcr31 }

/-- The rounding mode, the open point of underflow detection and Enables.V of this instruction. -/
def State.fpMode (s : State) : BitVec 2 := fcrMode s.fcrView
def State.fpTiny (s : State) : Bool := s.choose .tininess
def State.fpInvalidEnabled (s : State) : Bool := (fcrEnables s.fcrView).getLsbD 4

/-- A two-operand operation (R385-R392). -/
def fpBinary (isDouble : Bool) (op : FpFormat → BitVec 2 → Bool → Bool → Fp → Fp → FpOutcome) (word : Word)
    (fd fs ft : Reg) (s : State) : Result :=
  fpOp s (
    if evenSpecifier fd && evenSpecifier fs && evenSpecifier ft then
      let f := formatOf isDouble
      let a := s.srcFp isDouble fs
      let b := s.srcFp isDouble ft
      fpComplete word a b (op f s.fpMode s.fpTiny s.fpInvalidEnabled (f.unpack a) (f.unpack b)) s
        (s.storeFp isDouble fd)
    else fpOddSpecifier fd s)

/-- A one-operand operation from a value to a result of format `toDouble`; `op` reads the operand's bits. -/
def fpUnary (fromDouble toDouble : Bool) (op : State → BitVec 64 → FpOutcome) (word : Word) (fd fs : Reg)
    (s : State) : Result :=
  fpOp s (
    if evenSpecifier fd && evenSpecifier fs then
      let a := s.srcFp fromDouble fs
      fpComplete word a 0 (op s a) s (s.storeFp toDouble fd)
    else fpOddSpecifier fd s)

/-- `abs` and `neg` (R393, R395): the sign bit cleared or inverted. -/
def fpSign (isDouble : Bool) (f : BitVec 64 → BitVec 64 → BitVec 64) (s : State) (a : BitVec 64) : FpOutcome :=
  signOperation s.fpInvalidEnabled ((formatOf isDouble).unpack a)
    (f a (if isDouble then 0x8000000000000000 else 0x80000000))

/-- `mov` (R397, R398): bit for bit, FCR31 untouched, never declined. -/
def fpMove (isDouble : Bool) (fd fs : Reg) (s : State) : Result :=
  fpOp s (
    if evenSpecifier fd && evenSpecifier fs then done (s.storeFp isDouble fd (s.srcFp isDouble fs))
    else fpOddSpecifier fd s)

/-- Conversions between the floating-point formats (R401, R403). -/
def fpConvert (fromDouble toDouble : Bool) (s : State) (a : BitVec 64) : FpOutcome :=
  (formatOf toDouble).convert s.fpMode s.fpTiny s.fpInvalidEnabled ((formatOf fromDouble).unpack a)

/-- Conversions from a 32-bit integer (R402, R404). -/
def fpFromInt (toDouble : Bool) (s : State) (a : BitVec 64) : FpOutcome :=
  (formatOf toDouble).fromInt s.fpMode (a.setWidth 32 : Word).toInt

/-- Conversions to a 32-bit integer (R405, R406). -/
def fpToInt (fromDouble : Bool) (s : State) (a : BitVec 64) : FpOutcome :=
  toInt32 s.fpMode ((formatOf fromDouble).unpack a)

/-- `c.cond.fmt` (R410): C is the result, settled from the second instruction after (R594). -/
def fpCompare (isDouble : Bool) (cond : BitVec 4) (word : Word) (fs ft : Reg) (s : State) : Result :=
  fpOp s (
    let s := { s with pipe := { s.pipe with condWin := 2 } }
    if evenSpecifier fs && evenSpecifier ft then
      let f := formatOf isDouble
      let a := s.srcFp isDouble fs
      let b := s.srcFp isDouble ft
      fpComplete word a b (compareOutcome cond s.fpInvalidEnabled (f.unpack a) (f.unpack b)) s
        fun r => { s with fcr31 := setFcrC s.fcr31 (r == 1) }
    else done { s with fcr31 := mergeBits 0x0083F07C (s.free .fpOddSpecFcr) s.fcr31 })

/-! ## Arithmetic -/

/-- `add.s` (R385). -/
def execAddS (fd fs ft : Reg) (s : State) : Result :=
  fpBinary false FpFormat.add (encode (.addS fd fs ft)) fd fs ft s

/-- `add.d` (R386). -/
def execAddD (fd fs ft : Reg) (s : State) : Result :=
  fpBinary true FpFormat.add (encode (.addD fd fs ft)) fd fs ft s

/-- `sub.s` (R387). -/
def execSubS (fd fs ft : Reg) (s : State) : Result :=
  fpBinary false FpFormat.sub (encode (.subS fd fs ft)) fd fs ft s

/-- `sub.d` (R388). -/
def execSubD (fd fs ft : Reg) (s : State) : Result :=
  fpBinary true FpFormat.sub (encode (.subD fd fs ft)) fd fs ft s

/-- `mul.s` (R389). -/
def execMulS (fd fs ft : Reg) (s : State) : Result :=
  fpBinary false FpFormat.mul (encode (.mulS fd fs ft)) fd fs ft s

/-- `mul.d` (R390). -/
def execMulD (fd fs ft : Reg) (s : State) : Result :=
  fpBinary true FpFormat.mul (encode (.mulD fd fs ft)) fd fs ft s

/-- `div.s` (R391). -/
def execDivS (fd fs ft : Reg) (s : State) : Result :=
  fpBinary false FpFormat.div (encode (.divS fd fs ft)) fd fs ft s

/-- `div.d` (R392). -/
def execDivD (fd fs ft : Reg) (s : State) : Result :=
  fpBinary true FpFormat.div (encode (.divD fd fs ft)) fd fs ft s

/-- `abs.s` (R393). -/
def execAbsS (fd fs : Reg) (s : State) : Result :=
  fpUnary false false (fpSign false (fun v m => v &&& ~~~m)) (encode (.absS fd fs)) fd fs s

/-- `abs.d` (R394). -/
def execAbsD (fd fs : Reg) (s : State) : Result :=
  fpUnary true true (fpSign true (fun v m => v &&& ~~~m)) (encode (.absD fd fs)) fd fs s

/-- `neg.s` (R395). -/
def execNegS (fd fs : Reg) (s : State) : Result :=
  fpUnary false false (fpSign false (fun v m => v ^^^ m)) (encode (.negS fd fs)) fd fs s

/-- `neg.d` (R396). -/
def execNegD (fd fs : Reg) (s : State) : Result :=
  fpUnary true true (fpSign true (fun v m => v ^^^ m)) (encode (.negD fd fs)) fd fs s

/-- `mov.s` (R397). -/
def execMovS (fd fs : Reg) (s : State) : Result :=
  fpMove false fd fs s

/-- `mov.d` (R398). -/
def execMovD (fd fs : Reg) (s : State) : Result :=
  fpMove true fd fs s

/-! ## Conversions -/

/-- `cvt.s.d` (R401). -/
def execCvtSD (fd fs : Reg) (s : State) : Result :=
  fpUnary true false (fpConvert true false) (encode (.cvtSD fd fs)) fd fs s

/-- `cvt.s.w` (R402). -/
def execCvtSW (fd fs : Reg) (s : State) : Result :=
  fpUnary false false (fpFromInt false) (encode (.cvtSW fd fs)) fd fs s

/-- `cvt.d.s` (R403). -/
def execCvtDS (fd fs : Reg) (s : State) : Result :=
  fpUnary false true (fpConvert false true) (encode (.cvtDS fd fs)) fd fs s

/-- `cvt.d.w` (R404). -/
def execCvtDW (fd fs : Reg) (s : State) : Result :=
  fpUnary false true (fpFromInt true) (encode (.cvtDW fd fs)) fd fs s

/-- `cvt.w.s` (R405). -/
def execCvtWS (fd fs : Reg) (s : State) : Result :=
  fpUnary false false (fpToInt false) (encode (.cvtWS fd fs)) fd fs s

/-- `cvt.w.d` (R406). -/
def execCvtWD (fd fs : Reg) (s : State) : Result :=
  fpUnary true false (fpToInt true) (encode (.cvtWD fd fs)) fd fs s

/-! ## Compares -/

/-- `c.f.s` (R411). -/
def execCFS (fs ft : Reg) (s : State) : Result :=
  fpCompare false 0 (encode (.cFS fs ft)) fs ft s

/-- `c.f.d` (R411). -/
def execCFD (fs ft : Reg) (s : State) : Result :=
  fpCompare true 0 (encode (.cFD fs ft)) fs ft s

/-- `c.un.s` (R412). -/
def execCUnS (fs ft : Reg) (s : State) : Result :=
  fpCompare false 1 (encode (.cUnS fs ft)) fs ft s

/-- `c.un.d` (R412). -/
def execCUnD (fs ft : Reg) (s : State) : Result :=
  fpCompare true 1 (encode (.cUnD fs ft)) fs ft s

/-- `c.eq.s` (R413). -/
def execCEqS (fs ft : Reg) (s : State) : Result :=
  fpCompare false 2 (encode (.cEqS fs ft)) fs ft s

/-- `c.eq.d` (R413). -/
def execCEqD (fs ft : Reg) (s : State) : Result :=
  fpCompare true 2 (encode (.cEqD fs ft)) fs ft s

/-- `c.ueq.s` (R414). -/
def execCUeqS (fs ft : Reg) (s : State) : Result :=
  fpCompare false 3 (encode (.cUeqS fs ft)) fs ft s

/-- `c.ueq.d` (R414). -/
def execCUeqD (fs ft : Reg) (s : State) : Result :=
  fpCompare true 3 (encode (.cUeqD fs ft)) fs ft s

/-- `c.olt.s` (R415). -/
def execCOltS (fs ft : Reg) (s : State) : Result :=
  fpCompare false 4 (encode (.cOltS fs ft)) fs ft s

/-- `c.olt.d` (R415). -/
def execCOltD (fs ft : Reg) (s : State) : Result :=
  fpCompare true 4 (encode (.cOltD fs ft)) fs ft s

/-- `c.ult.s` (R416). -/
def execCUltS (fs ft : Reg) (s : State) : Result :=
  fpCompare false 5 (encode (.cUltS fs ft)) fs ft s

/-- `c.ult.d` (R416). -/
def execCUltD (fs ft : Reg) (s : State) : Result :=
  fpCompare true 5 (encode (.cUltD fs ft)) fs ft s

/-- `c.ole.s` (R417). -/
def execCOleS (fs ft : Reg) (s : State) : Result :=
  fpCompare false 6 (encode (.cOleS fs ft)) fs ft s

/-- `c.ole.d` (R417). -/
def execCOleD (fs ft : Reg) (s : State) : Result :=
  fpCompare true 6 (encode (.cOleD fs ft)) fs ft s

/-- `c.ule.s` (R418). -/
def execCUleS (fs ft : Reg) (s : State) : Result :=
  fpCompare false 7 (encode (.cUleS fs ft)) fs ft s

/-- `c.ule.d` (R418). -/
def execCUleD (fs ft : Reg) (s : State) : Result :=
  fpCompare true 7 (encode (.cUleD fs ft)) fs ft s

/-- `c.sf.s` (R419). -/
def execCSfS (fs ft : Reg) (s : State) : Result :=
  fpCompare false 8 (encode (.cSfS fs ft)) fs ft s

/-- `c.sf.d` (R419). -/
def execCSfD (fs ft : Reg) (s : State) : Result :=
  fpCompare true 8 (encode (.cSfD fs ft)) fs ft s

/-- `c.ngle.s` (R420). -/
def execCNgleS (fs ft : Reg) (s : State) : Result :=
  fpCompare false 9 (encode (.cNgleS fs ft)) fs ft s

/-- `c.ngle.d` (R420). -/
def execCNgleD (fs ft : Reg) (s : State) : Result :=
  fpCompare true 9 (encode (.cNgleD fs ft)) fs ft s

/-- `c.seq.s` (R421). -/
def execCSeqS (fs ft : Reg) (s : State) : Result :=
  fpCompare false 10 (encode (.cSeqS fs ft)) fs ft s

/-- `c.seq.d` (R421). -/
def execCSeqD (fs ft : Reg) (s : State) : Result :=
  fpCompare true 10 (encode (.cSeqD fs ft)) fs ft s

/-- `c.ngl.s` (R422). -/
def execCNglS (fs ft : Reg) (s : State) : Result :=
  fpCompare false 11 (encode (.cNglS fs ft)) fs ft s

/-- `c.ngl.d` (R422). -/
def execCNglD (fs ft : Reg) (s : State) : Result :=
  fpCompare true 11 (encode (.cNglD fs ft)) fs ft s

/-- `c.lt.s` (R423). -/
def execCLtS (fs ft : Reg) (s : State) : Result :=
  fpCompare false 12 (encode (.cLtS fs ft)) fs ft s

/-- `c.lt.d` (R423). -/
def execCLtD (fs ft : Reg) (s : State) : Result :=
  fpCompare true 12 (encode (.cLtD fs ft)) fs ft s

/-- `c.nge.s` (R424). -/
def execCNgeS (fs ft : Reg) (s : State) : Result :=
  fpCompare false 13 (encode (.cNgeS fs ft)) fs ft s

/-- `c.nge.d` (R424). -/
def execCNgeD (fs ft : Reg) (s : State) : Result :=
  fpCompare true 13 (encode (.cNgeD fs ft)) fs ft s

/-- `c.le.s` (R425). -/
def execCLeS (fs ft : Reg) (s : State) : Result :=
  fpCompare false 14 (encode (.cLeS fs ft)) fs ft s

/-- `c.le.d` (R425). -/
def execCLeD (fs ft : Reg) (s : State) : Result :=
  fpCompare true 14 (encode (.cLeD fs ft)) fs ft s

/-- `c.ngt.s` (R426). -/
def execCNgtS (fs ft : Reg) (s : State) : Result :=
  fpCompare false 15 (encode (.cNgtS fs ft)) fs ft s

/-- `c.ngt.d` (R426). -/
def execCNgtD (fs ft : Reg) (s : State) : Result :=
  fpCompare true 15 (encode (.cNgtD fs ft)) fs ft s

/-! ## Moves, control registers, loads and stores -/

/-- `mfc1` (R430). -/
def execMfc1 (rt fs : Reg) (s : State) : Result :=
  withCop 1 s (done (s.setGprLate rt (if s.cfg.hasFpa then s.srcFpr fs else s.free .noFpa) false))

/-- `mtc1` (R431). -/
def execMtc1 (rt fs : Reg) (s : State) : Result := fpOp s (done (s.setFprLate fs (s.src rt)))

/-- What `cfc1` reads (R428): FCR0, FCR31, or an open value; without an FPA bits 15:8 of FCR0 are zero (R372). -/
def State.fcrRead (s : State) (fs : Reg) : Word :=
  if s.cfg.hasFpa then
    if fs = 0 then s.cfg.fcr0 else if fs = 31 then s.fcrView else s.free .fcrUndefined
  else if fs = 0 then s.free .noFpa &&& 0xFFFF00FF
  else s.free .noFpa

/-- `cfc1` (R428). -/
def execCfc1 (rt fs : Reg) (s : State) : Result := withCop 1 s (done (s.setGprLate rt (s.fcrRead fs) false))

/-- FCR31 written (R429); the next instruction may see the earlier one, the condition settles an instruction later
(R595). -/
def State.writeFcr31 (s : State) (v : Word) : State :=
  { s with fcr31 := v &&& fcrMask, pipe := { s.pipe with fcrLate := some s.fcr31, condWin := 3 } }

/-- `ctc1` (R429); a write to any register but FCR31 is ignored (U14). -/
def execCtc1 (rt fs : Reg) (s : State) : Result :=
  fpOp s (done (if fs = 31 then s.writeFcr31 (s.src rt) else s))

/-- `lwc1` (R433); without an FPA the read is made and the word goes nowhere (R372). -/
def execLwc1 (ft : Reg) (offset : BitVec 16) (base : Reg) (s : State) : Result :=
  withCop 1 s (readMem (s.effAddr base offset) 4 s fun w s' =>
    done (if s.cfg.hasFpa then s'.setFprLate ft w else s'))

/-- `swc1` (R434); without an FPA the word is open (R372). -/
def execSwc1 (ft : Reg) (offset : BitVec 16) (base : Reg) (s : State) : Result :=
  withCop 1 s (writeMem (s.effAddr base offset) 4 (if s.cfg.hasFpa then s.srcFpr ft else s.free .noFpa) (lanes 0 4) s)

/-! ## Words that are no instruction -/

/-- A COP1 operation that does not exist: an unimplemented operation without a destination (R381). -/
def execFpUnimplemented (s : State) : Result := fpOp s (fpDecline s)

/-- A fetched word of no row of the table: RI, for a coprocessor's word after the usability check (R175); a COP1 operation
that does not exist is an unimplemented operation instead, "not RI" (R173, R381; for `sqrt.s` 95_test_vectors.md says so by
name). -/
def execReserved (e : DecodeError) (s : State) : Result :=
  match e with
  | .reservedOpcode _ | .reservedFunct _ | .reservedRegimm _ | .truncated => raise .ri s
  | .reservedCopMove z _ _ => withCop z s (raise .ri s)
  | .reservedCop0Operation _ => withCop 0 s (raise .ri s)
  | .unimplementedFpOperation _ _ => execFpUnimplemented s

end Sys2Proof.Machine
end

