-- ==== Sys2Proof/Machine/MulDiv.lean ====
section
/-! DEFINITION. Multiply, divide and HI/LO (42_muldiv.md R240-R259). -/

namespace Sys2Proof.Machine

/-! ## The hazard of R256 (log entry 24) -/

/-- The value a writer gives to what an earlier `mfhi` or `mflo` read. -/
def HiLoRead.rewritten (r : HiLoRead) (hi lo : Option Word) : Option Word := if r.isHi then hi else lo

/-- A writer of HI or LO within two instructions of an `mfhi` or `mflo`: that read saw the old or the new value. -/
def State.rereadOne (s : State) (hi lo : Option Word) (r : HiLoRead) : State :=
  match r.rewritten hi lo with
  | some v => if s.gprAt r.rd = r.value then s.setGpr r.rd (s.oldOrNew .hiloRead r.value v) else s
  | none => s

/-- All the reads still inside the window. -/
def State.reread (s : State) (hi lo : Option Word) : State :=
  let s' := s.pipe.hiloReads.foldl (fun t r => t.rereadOne hi lo r) s
  let reads := s.pipe.hiloReads.map fun r =>
    if s.gprAt r.rd = r.value then { r with value := s'.gprAt r.rd } else r
  { s' with pipe := { s'.pipe with hiloReads := reads } }

/-- HI and LO receive the result of a multiply or divide; a result nothing has read is lost (R257). -/
def writeHiLo (hi lo : Word) (s : State) : Result :=
  let s' := s.reread (some hi) (some lo)
  done { s' with hi := hi, lo := lo, pipe := { s'.pipe with hiloFresh := true } }

/-- HI and LO as an `mfhi`, `mflo`, `mthi` or `mtlo` finds them: read or written, so not fresh any more (R258). -/
def State.useHiLo (s : State) : State := { s with pipe := { s.pipe with hiloFresh := false } }

/-- `mfhi` and `mflo`: the register and the window of R256. -/
def readHiLo (rd : Reg) (isHi : Bool) (v : Word) (s : State) : Result :=
  let s' := s.useHiLo.setGpr rd v
  done { s' with pipe := { s'.pipe with hiloReads := ⟨rd, isHi, v, 0⟩ :: s'.pipe.hiloReads } }

/-- The companion register of an `mthi` or `mtlo`: undefined after a multiply or divide nothing has read (R258). -/
def State.companion (s : State) (v : Word) : Word := if s.pipe.hiloFresh then s.free .companion else v

/-! ## Products and quotients -/

/-- The exact 64-bit product of two integers. -/
def product (a b : Int) : BitVec 64 := BitVec.ofInt 64 (a * b)

/-- HI and LO after a division, rounding towards zero (R248); free after a division by zero (R247). -/
def divide (a b : Int) (divisor : Word) (s : State) : Result :=
  if divisor = 0 then writeHiLo (s.free .divHi) (s.free .divLo) s
  else writeHiLo (BitVec.ofInt 32 (a.tmod b)) (BitVec.ofInt 32 (a.tdiv b)) s

/-! ## The instructions -/

/-- `mult` (R243). -/
def execMult (rs rt : Reg) (s : State) : Result :=
  let p := product (s.src rs).toInt (s.src rt).toInt
  writeHiLo (p.extractLsb' 32 32) (p.extractLsb' 0 32) s

/-- `multu` (R244). -/
def execMultu (rs rt : Reg) (s : State) : Result :=
  let p := product (s.src rs).toNat (s.src rt).toNat
  writeHiLo (p.extractLsb' 32 32) (p.extractLsb' 0 32) s

/-- `div` (R245). -/
def execDiv (rs rt : Reg) (s : State) : Result :=
  divide (s.src rs).toInt (s.src rt).toInt (s.src rt) s

/-- `divu` (R246). -/
def execDivu (rs rt : Reg) (s : State) : Result :=
  divide (s.src rs).toNat (s.src rt).toNat (s.src rt) s

/-- `mfhi` (R249). -/
def execMfhi (rd : Reg) (s : State) : Result := readHiLo rd true s.hi s

/-- `mflo` (R250). -/
def execMflo (rd : Reg) (s : State) : Result := readHiLo rd false s.lo s

/-- `mthi` (R251). -/
def execMthi (rs : Reg) (s : State) : Result :=
  let v := s.src rs
  let s' := (s.reread (some v) none).useHiLo
  done { s' with hi := v, lo := s.companion s.lo }

/-- `mtlo` (R252). -/
def execMtlo (rs : Reg) (s : State) : Result :=
  let v := s.src rs
  let s' := (s.reread none (some v)).useHiLo
  done { s' with lo := v, hi := s.companion s.hi }

end Sys2Proof.Machine
end

