-- ==== Sys2Proof/Machine/Shift.lean ====
section
/-! DEFINITION. Shift instructions (41_shift.md R230-R236). The value shifted is `rt`. -/

namespace Sys2Proof.Machine

/-- `sll`, and the no-op (R231). -/
def execSll (rd rt : Reg) (shamt : BitVec 5) (s : State) : Result :=
  writeReg rd (s.src rt <<< shamt) s

/-- `srl` (R232). -/
def execSrl (rd rt : Reg) (shamt : BitVec 5) (s : State) : Result :=
  writeReg rd (s.src rt >>> shamt) s

/-- `sra` (R233). -/
def execSra (rd rt : Reg) (shamt : BitVec 5) (s : State) : Result :=
  writeReg rd ((s.src rt).sshiftRight shamt.toNat) s

/-- `sllv` (R234). -/
def execSllv (rd rt rs : Reg) (s : State) : Result :=
  writeReg rd (s.src rt <<< shiftAmount (s.src rs)) s

/-- `srlv` (R235). -/
def execSrlv (rd rt rs : Reg) (s : State) : Result :=
  writeReg rd (s.src rt >>> shiftAmount (s.src rs)) s

/-- `srav` (R236). -/
def execSrav (rd rt rs : Reg) (s : State) : Result :=
  writeReg rd ((s.src rt).sshiftRight (shiftAmount (s.src rs)).toNat) s

end Sys2Proof.Machine
end

