-- ==== Sys2Proof/Machine/Environment.lean ====
section
/-! DEFINITION. What happens besides an instruction: the in-flight state moving on, the environment's events
(00_scope.md R9, 20_memory.md R131, R141, R149, 70_reset_and_hazards.md R570-R573), Config.Halt (10_state.md R60), and
the placing of a program. -/

namespace Sys2Proof.Machine

/-! ## The in-flight state at the start of an instruction -/

/-- One instruction later: what was pending is in its slot, the windows are one instruction older. -/
def Pipe.rotate (p : Pipe) : Pipe :=
  { gprLate := none
    gprShadow := p.gprLate
    fprLate := none
    fprShadow := p.fprLate
    fcrLate := none
    fcrShadow := p.fcrLate
    condWin := p.condWin - 1
    this := .other
    prev := p.this
    hiloReads := (p.hiloReads.map fun r => { r with age := r.age + 1 }).filter fun r => decide (r.age ≤ 2)
    hiloFresh := p.hiloFresh
    aborted := p.aborted
    late := (p.late.map fun l => { l with age := l.age + 1 }).filter fun l => decide (l.age ≤ 3)
    tlbLate := (p.tlbLate.map fun l => { l with age := l.age + 1 }).filter fun l => decide (l.age ≤ 2) }

/-- A fresh number for the free values. -/
def State.draw (s : State) : State := { s with draws := s.draws + 1 }

/-- The in-flight state one instruction later, with a fresh number for the free values. -/
def State.rotated (s : State) : State := { s.draw with pipe := s.pipe.rotate }

/-! ## Config.Halt (log entry 42) -/

/-- The core is at a standstill (10_state.md R60). -/
def State.halted (s : State) : Bool := s.cfg.hasConfig7181 && s.cp0.config.getLsbD 25

/-- An interrupt input wakes the core, and Halt then reads 0 (D16). -/
def State.wake (s : State) : State :=
  if s.pins.int = 0 then s
  else { s.draw with cp0 := { s.cp0 with config := setBit s.cp0.config 25 false } }

/-! ## Cache lines by number -/

def State.dLineAt (s : State) (i : Nat) : DLine := sparseGet DLine.blank s.dcache i
def State.iLineAt (s : State) (i : Nat) : ILine := sparseGet ILine.blank s.icache i

def State.setDLineAt (s : State) (i : Nat) (l : DLine) : State :=
  { s with dcache := sparseSet DLine.blank s.dcache i l }

def State.setILineAt (s : State) (i : Nat) (l : ILine) : State :=
  { s with icache := sparseSet ILine.blank s.icache i l }

/-! ## Warm reset (log entry 43) -/

/-- CP0 after a warm reset (70_reset_and_hazards.md R571, R572): what R571 lists, SR's other bits open, the rest kept, the
timer having run until then (R53). DESIGN CHOICE (log entry 43): Tc* asserted in level mode stays asserted. -/
def State.warmCp0 (s : State) : Cp0 :=
  { (if s.cfg.is3041 then (s.tickCount .warmReset).cp0 else s.cp0) with
    random := 63
    compare := 0xFFFFFF
    epc := s.pc
    sr := mergeBits 0xF21FFF3C (s.free .resetSr) (resetSr s.cfg)
    busCtrl := resetBusCtrl
    config :=
      match s.cfg.member with
      | .r3041 => (s.cp0.config &&& 0x00080000) ||| resetConfig s.cfg
      | .r3071 | .r3081 => mergeBits 0xBE000000 (resetConfig s.cfg) s.cp0.config
      | .r3051 | .r3052 => s.cp0.config }

/-- The register a load was filling may be trashed (R572). -/
def State.trashLoads (s : State) : State :=
  let t := match s.pipe.gprLate with
    | some l => s.setGpr l.reg (s.free .resetTrash)
    | none => s
  match s.pipe.fprLate with
  | some l => t.setFpr l.reg (s.free .resetTrashFp)
  | none => t

/-- The cache lines that were being stored to or refilled may be trashed (R572). -/
def State.trashLines (s : State) (dLine iLine : Option Nat) : State :=
  let w (k : Nat) : Word := s.free (.resetLine k)
  let t := match dLine with
    | some i => s.setDLineAt i ⟨s.choose (.resetLine false), (w 0).toNat, w 1⟩
    | none => s
  match iLine with
  | some i => t.setILineAt i ⟨s.choose (.resetLine true), (w 0).toNat, #v[w 2, w 3, w 4, w 5]⟩
  | none => t

/-- A warm reset (R572): memory, registers, TLB and caches are kept; the buffered stores reach memory or are lost. DESIGN
CHOICE (log entry 43): it closes every hazard window that is open. -/
def State.warmReset (s : State) (dLine iLine : Option Nat) : State :=
  let m := ((if s.choose .resetBuffer then { s with wbuf := [] } else s.drain).trashLoads).trashLines dLine iLine
  { m.draw with
    cp0 := s.warmCp0
    pc := resetVector
    npc := resetVector + 4
    inDelay := false
    utlb := []
    pipe := { Pipe.empty with hiloFresh := s.pipe.hiloFresh } }

/-! ## Events -/

/-- A DMA byte write; with `CohReq*` (R3071, R3081) the D-cache line of the word becomes invalid (R141). DESIGN CHOICE (log
entry 12): the invalid line keeps its tag and data. -/
def State.dmaWrite (s : State) (a : Word) (v : Byte) (coherent : Bool) : State :=
  let t := { s with mem := writeByte s.cfg s.mem a v }
  if coherent && s.cfg.hasConfig7181 && s.dHit a then t.setDLine a { t.dLine a with valid := false } else t

/-- A parity error (R149): the data are what the event says; SR.PE is set unless SR.PZ turns the check off. DESIGN CHOICE
(log entry 40): on a member without cache parity, where R36 does not say how PE behaves, nothing sets it. -/
def State.parityError (s : State) (inICache : Bool) (index : Nat) (v : Word) : State :=
  if !s.cfg.hasConfig7181 then s
  else
    let t :=
      if inICache then s.setILineAt index { s.iLineAt index with words := Vector.replicate 4 v }
      else s.setDLineAt index { s.dLineAt index with data := v }
    if s.srBit 3 18 then t else t.updateSr fun sr => setBit sr 20 true

/-- What an event other than a step of the CPU does. -/
def State.applyEvent (s : State) : Event → State
  | .cpu => s
  | .pins i b => { s with pins := ⟨i, b⟩ }
  | .retire => s.retire
  | .dmaWrite a v coherent => s.dmaWrite a v coherent
  | .parityError inICache index v => s.parityError inICache index v
  | .reset dLine iLine => s.warmReset dLine iLine

/-! ## Placing a program (log entry 48) -/

/-- Where the next fetch reads: the physical address and whether it is uncached. -/
def State.fetchAddress (s : State) : Option (Word × Bool) :=
  match (s.rotated.translateFetch s.pc).1 with
  | .ok pa uncached => some (pa, uncached)
  | .exc _ | .multiple | .dead => none

/-- A word stored in memory, in memory's byte order. -/
def State.placeWord (s : State) (a w : Word) : State :=
  { s with mem := commitEntry s.cfg s.mem ⟨wordAddr a, w, 0b1111⟩ }

/-- A word placed where the next fetch reads it: nothing buffered is left to overwrite it, no cache line hides it, and
the CPU steps next. -/
def State.placeAtFetch (s : State) (w : Word) : State :=
  match s.fetchAddress with
  | some (a, _) =>
    let t := (s.drain.placeWord a w).setILine a ILine.blank
    { (t.setDLine a DLine.blank) with events := [] }
  | none => s

end Sys2Proof.Machine
end

