-- ==== Sys2Proof/Machine/Restart.lean ====
section
/-! DEFINITION. The start of an instruction, and what an abandoned multiply does to it: a multiply, divide, `mthi` or `mtlo`
is not nullified when an instruction before it is the victim of an exception (42_muldiv.md R256, 60_exceptions.md R505,
70_reset_and_hazards.md R593, log entry 24). -/

namespace Sys2Proof.Machine

/-! ## The instructions ahead -/

/-- The instruction a fetch at `pc` would deliver now. -/
def State.peek (s : State) : Option Instr :=
  match s.fetch with
  | .done w _ => (decodeWord w).toOption
  | .exc _ _ | .shutdown _ | .dead => none

/-- The state behind the instruction at `pc` when nothing interrupts it; one that raises an exception is passed over. -/
def State.passed (s : State) : State :=
  match s.peek with
  | some i =>
    match exec i s with
    | .next t => if t.pc = s.npc then t else s.advance
    | .fault _ | .refused _ => s.advance
  | none => s.advance

/-- The general register an instruction writes. -/
def destination : Instr → Option Reg
  | .sll rd _ _ | .srl rd _ _ | .sra rd _ _ | .sllv rd _ _ | .srlv rd _ _ | .srav rd _ _ | .jalr rd _ | .mfhi rd
  | .mflo rd | .add rd _ _ | .addu rd _ _ | .sub rd _ _ | .subu rd _ _ | .and rd _ _ | .or rd _ _ | .xor rd _ _
  | .nor rd _ _ | .slt rd _ _ | .sltu rd _ _ => some rd
  | .addi rt _ _ | .addiu rt _ _ | .slti rt _ _ | .sltiu rt _ _ | .andi rt _ _ | .ori rt _ _ | .xori rt _ _
  | .lui rt _ | .lb rt _ _ | .lh rt _ _ | .lwl rt _ _ | .lw rt _ _ | .lbu rt _ _ | .lhu rt _ _ | .lwr rt _ _
  | .mfc0 rt _ | .mfc2 rt _ | .cfc2 rt _ | .cfc3 rt _ | .mfc1 rt _ | .cfc1 rt _ => some rt
  | .bltzal _ _ | .bgezal _ _ | .jal _ => some 31
  | .jr _ | .syscall _ | .break_ _ | .mthi _ | .mtlo _ | .mult _ _ | .multu _ _ | .div _ _ | .divu _ _ | .bltz _ _
  | .bgez _ _ | .j _ | .beq _ _ _ | .bne _ _ _ | .blez _ _ | .bgtz _ _ | .sb _ _ _ | .sh _ _ _ | .swl _ _ _
  | .sw _ _ _ | .swr _ _ _ | .mtc0 _ _ | .cfc0 _ _ | .ctc0 _ _ | .tlbr | .tlbwi | .tlbwr | .tlbp | .rfe | .bc0f _
  | .bc0t _ | .bc1f _ | .bc1t _ | .bc2f _ | .bc2t _ | .bc3f _ | .bc3t _ | .mtc2 _ _ | .ctc2 _ _ | .cop2 _
  | .mfc3 _ _ | .mtc3 _ _ | .ctc3 _ _ | .cop3 _ | .mtc1 _ _ | .ctc1 _ _ | .lwc0 _ _ _ | .swc0 _ _ _ | .lwc1 _ _ _
  | .swc1 _ _ _ | .lwc2 _ _ _ | .lwc3 _ _ _ | .swc2 _ _ _ | .swc3 _ _ _ | .addS _ _ _ | .addD _ _ _ | .subS _ _ _
  | .subD _ _ _ | .mulS _ _ _ | .mulD _ _ _ | .divS _ _ _ | .divD _ _ _ | .absS _ _ | .absD _ _ | .negS _ _
  | .negD _ _ | .movS _ _ | .movD _ _ | .cvtSD _ _ | .cvtSW _ _ | .cvtDS _ _ | .cvtDW _ _ | .cvtWS _ _ | .cvtWD _ _
  | .cFS _ _ | .cFD _ _ | .cUnS _ _ | .cUnD _ _ | .cEqS _ _ | .cEqD _ _ | .cUeqS _ _ | .cUeqD _ _ | .cOltS _ _
  | .cOltD _ _ | .cUltS _ _ | .cUltD _ _ | .cOleS _ _ | .cOleD _ _ | .cUleS _ _ | .cUleD _ _ | .cSfS _ _
  | .cSfD _ _ | .cNgleS _ _ | .cNgleD _ _ | .cSeqS _ _ | .cSeqD _ _ | .cNglS _ _ | .cNglD _ _ | .cLtS _ _
  | .cLtD _ _ | .cNgeS _ _ | .cNgeD _ _ | .cLeS _ _ | .cLeD _ _ | .cNgtS _ _ | .cNgtD _ _ => none

/-! ## A read of HI or LO with a writer close behind (R256, D28) -/

/-- The half of HI/LO that was read. -/
def HiLoRead.half (x : HiLoRead) (s : State) : Word := if x.isHi then s.hi else s.lo

/-- What the read delivers, `u` being the state `n` instructions on: a writer among them may have reached HI/LO before an
exception abandoned the read, which then read anew. -/
def HiLoRead.ahead (x : HiLoRead) (s u : State) (n : Nat) : HiLoRead :=
  if x.half u = x.half s then x else { x with value := s.oldOrNew (.hiloAhead n) x.value (x.half u) }

/-- The read by the previous instruction is settled before this one uses its register. -/
def State.settleRead (s : State) (x : HiLoRead) : HiLoRead :=
  if x.age = 1 then (x.ahead s s.passed 1).ahead s s.passed.rotated.passed 2 else x

/-- The register of a settled read. -/
def State.deliverRead (s : State) (before after : HiLoRead) : State :=
  if after.value = before.value then s else s.setGpr before.rd after.value

/-- The reads of HI and LO with the writers ahead seen; a read whose register this instruction overwrites is over. -/
def State.settleReads (s : State) : State :=
  if s.pipe.hiloReads.isEmpty then s
  else
    let t := s.pipe.hiloReads.foldl (fun t x => t.deliverRead x (s.settleRead x)) s
    { t with
      pipe := { t.pipe with
        hiloReads := (s.pipe.hiloReads.map s.settleRead).filter fun x => s.peek.bind destination != some x.rd } }

/-! ## HI and LO at the start of a handler (R505) -/

/-- HI and LO as a multiply behind the victim of an exception has left them. DESIGN CHOICE (log entry 24): an `mthi` or
`mtlo` among the started instructions does not clear `hiloFresh` (R258) when it was set before. -/
def State.takeHiLo (s u : State) : State :=
  { s with hi := u.hi, lo := u.lo, pipe := { s.pipe with hiloFresh := s.pipe.hiloFresh || u.pipe.hiloFresh } }

/-- The state at the instruction after the victim, which has had no effect on HI and LO. -/
def State.behindVictim (s : State) (v : Aborted) : State :=
  let u : State := { s with pc := v.pc, npc := v.npc, inDelay := v.inDelay, cp0 := { s.cp0 with sr := v.sr } }
  { u.passed with hi := s.hi, lo := s.lo, pipe := { u.passed.pipe with hiloFresh := s.pipe.hiloFresh } }.rotated

/-- The first instruction of a handler finds HI and LO untouched, or written by one of the two instructions behind the
victim. DESIGN CHOICE (log entry 24): a read of HI or LO between the victim and a started `mthi` or `mtlo` counts as a read
for R258, though it is nullified. -/
def State.startHandler (s : State) : State :=
  match s.pipe.aborted with
  | none => s
  | some v =>
    let one := (s.behindVictim v).passed
    let two := one.rotated.passed
    let t := if s.choose (.hiloStarted 2) then s.takeHiLo two
      else if s.choose (.hiloStarted 1) then s.takeHiLo one else s
    { t with pipe := { t.pipe with aborted := none } }

/-- The machine that an interrupt before the instruction at `pc` finds: a read of HI or LO just before it delivers what was
read, or what a writer among the two instructions ahead has left (R256, log entry 24). -/
def State.interrupted (s : State) : State := { s.atBoundary.draw with gpr := s.rotated.settleReads.gpr }

/-- The start of an instruction. -/
def State.begin (s : State) : State := s.rotated.startHandler.settleReads.settleTimer

end Sys2Proof.Machine
end

