-- ==== Sys2Proof/Machine/Step.lean ====
section
/-! DEFINITION. One step of the machine. -/

namespace Sys2Proof.Machine

/-- A fetched word is executed, or is no instruction. -/
def runWord (w : Word) (s : State) : Result :=
  match decodeWord w with
  | .ok i => exec i s
  | .error e => execReserved e s

/-- The CPU's step: at a standstill it waits for an interrupt input (10_state.md R60); an interrupt that is due is
taken (60_exceptions.md R526), with the read of HI or LO before it settled (42_muldiv.md R256); else the instruction at `pc` is fetched and executed (44_branch_jump.md R300). -/
def cpuStep (s : State) : Result :=
  if s.halted then .next s.wake
  else if s.interruptPending then raise .int s.interrupted
  else s.begin.fetch.andThen runWord

/-- One step: what the environment does next, and with no event the CPU (log entry 12). -/
def step (s : State) : Host.Outcome State Fault Refusal :=
  match s.events with
  | [] => cpuStep s
  | .cpu :: rest => cpuStep { s with events := rest }
  | e :: rest => .next ({ s with events := rest }.applyEvent e)

/-- The state with an instruction of `nbits` bits `w` placed where `step` fetches next. -/
def State.withFetchWord (s : State) (nbits w : Nat) : State :=
  s.placeAtFetch (BitVec.ofNat 32 (w % 2 ^ nbits))

end Sys2Proof.Machine
end

