-- ==== Sys2Proof/Safety.lean ====
section
/-! DEFINITION. The terms statements are made in: the invariant of the machine, memory as it will stand when the write
buffer is empty, states with nothing in flight, and what an instruction changes and leaves alone. -/

namespace Sys2Proof

open Sys2Proof.Machine

/-! ## The invariant -/

/-- Memory and the caches are in canonical form. -/
abbrev Contents (s : State) : Prop :=
  Memory.wf s.mem = true ∧ sparseWf DLine.blank s.dcache = true ∧ sparseWf ILine.blank s.icache = true

/-- The fields drawn "0" read zero (10_state.md R27, R29, R45, R65, R66, R69, R75). -/
abbrev ZeroFields (s : State) : Prop :=
  s.cp0.sr &&& 0x0D8000C0 = 0 ∧ s.cp0.cause &&& 0x4FFFFC83 = 0 ∧ s.cp0.entryHi &&& 0x3F = 0 ∧
    s.cp0.entryLo &&& 0xFF = 0 ∧ s.cp0.context &&& 3 = 0 ∧ s.fcr31 &&& 0xFF7C0000 = 0

/-- `$0` is stored as zero (R21), Random is 8 to 63 (R68), the write buffer has at most four entries (R82), the
micro-TLB at most two (R71). -/
abbrev Bounds (s : State) : Prop :=
  s.gpr[0] = 0 ∧ 8 ≤ s.cp0.random.toNat ∧ s.wbuf.length ≤ 4 ∧ s.utlb.length ≤ 2

/-- What every step keeps. -/
abbrev MachineInv (s : State) : Prop := Contents s ∧ ZeroFields s ∧ Bounds s

/-! ## Memory with the write buffer empty (20_memory.md R130-R133) -/

/-- A byte of memory as it stands once every buffered store has reached it. -/
def Machine.State.settledByte (s : State) (a : Word) : Byte := s.drain.byteAt a

/-- The word at an address, once every buffered store has reached memory. -/
def Machine.State.settledWord (s : State) (a : Word) : Word := s.drain.memWord a

/-! ## States without hazards (70_reset_and_hazards.md R590-R600) -/

/-- No `mtc0` is so recent that an operation may still see the earlier value. -/
abbrev NoRecentMtc0 (s : State) : Prop := s.pipe.late = []

/-- Data accesses go to memory as usual: the cache neither isolated nor swapped. -/
abbrev NormalCaches (s : State) : Prop := s.isolated = false ∧ s.swapped = false

/-- Every word of the four-word line of a physical address is memory (20_memory.md R108), which the board reads without
error (R122). -/
def LineIsMemory (s : State) (pa : Word) : Prop :=
  ∀ a, blockAddr a = blockAddr pa →
    (regionKind s.cfg a = .ram ∨ regionKind s.cfg a = .rom) ∧ ∀ fetch, busError s.cfg fetch a = false

/-- The word a data read delivers (R120, R127, R129, R132): on a hit the line's data, else memory after every earlier
store. -/
def Machine.State.deliveredWord (s : State) (uncached : Bool) (pa : Word) : Word :=
  if !uncached && s.dHit pa && !s.forceMiss then (s.dLine pa).data else s.settledWord pa

/-- A load or store of this machine may start here: nothing of R347 forbids it. -/
abbrev MayAccess (s : State) : Prop := s.pipe.prev ≠ .tlbp

/-- A data read of `pa` is answered by the D-cache (R127, R129, R148). -/
abbrev Machine.State.servedByCache (s : State) (uncached : Bool) (pa : Word) : Bool :=
  !uncached && s.dHit pa && !s.forceMiss

/-- `a` is in what a D-cache miss at `pa` reads from memory: the word, or with block refill the four words (R139). -/
abbrev InRefill (s : State) (pa a : Word) : Prop :=
  if s.blockRefill then blockAddr a = blockAddr pa else wordAddr a = wordAddr pa

/-- The D-cache and the write buffer after a data read of `pa`: a hit touches neither; a read that reaches the bus waits for
the buffered stores (R132); an uncached one leaves the D-cache alone (R129); a miss makes the lines it refills valid with
memory's words and leaves every other line alone (R127, R139). -/
def ReadLeaves (s t : State) (uncached : Bool) (pa : Word) : Prop :=
  (s.servedByCache uncached pa = true → t.dcache = s.dcache ∧ t.wbuf = s.wbuf ∧ t.mem = s.mem) ∧
    (s.servedByCache uncached pa = false → t.wbuf = []) ∧ (uncached = true → t.dcache = s.dcache) ∧
    (uncached = false → s.servedByCache uncached pa = false → sparseWf DLine.blank s.dcache = true →
      (∀ a, InRefill s pa a → t.dLine a = ⟨true, s.dTag a, s.settledWord a⟩) ∧
      ∀ a, (∀ b, InRefill s pa b → s.dIndex b ≠ s.dIndex a) → t.dLine a = s.dLine a)

/-! ## What an instruction changes -/

/-- The machine goes on to the next instruction. -/
abbrev Sequential (s t : State) : Prop := t.pc = s.npc ∧ t.npc = s.npc + 4 ∧ t.inDelay = false

/-- Every byte of memory, buffered stores included, is as before. -/
abbrev SameMemory (s t : State) : Prop := ∀ a, t.settledByte a = s.settledByte a

/-- `r` answers a next state with `rd` holding `v`, every other register and everything else as before. -/
def WritesGpr (s : State) (r : Result) (rd : Reg) (v : Word) : Prop :=
  ∃ t, r = .next t ∧ t.gprAt rd = (if rd = 0 then 0 else v) ∧ (∀ q, q ≠ rd → t.gprAt q = s.gprAt q) ∧
    SameMemory s t ∧ t = { s with gpr := t.gpr, pc := s.npc, npc := s.npc + 4, inDelay := false }

/-- `r` answers a next state that differs from `s` in nothing but the program counter. -/
def ChangesNothing (s : State) (r : Result) : Prop :=
  ∃ t, r = .next t ∧ (∀ q, t.gprAt q = s.gprAt q) ∧ SameMemory s t ∧
    t = { s with pc := s.npc, npc := s.npc + 4, inDelay := false }

/-- `r` takes the exception `e` at this instruction (60_exceptions.md R530). -/
def Raises (s : State) (r : Result) (e : Exc) : Prop := r = .next (s.takeException e)

/-- A move into a general register, one instruction late (R590): only `rt` and the pending-load slot change. -/
def MovesToGpr (s : State) (r : Result) (rt : Reg) (v : Word) : Prop :=
  ∃ t, r = .next t ∧ t.gprAt rt = (if rt = 0 then 0 else v) ∧ (∀ q, q ≠ rt → t.gprAt q = s.gprAt q) ∧
    SameMemory s t ∧
    t = { s with
          gpr := t.gpr, pc := s.npc, npc := s.npc + 4, inDelay := false
          pipe := { s.pipe with gprLate := if rt = 0 then s.pipe.gprLate else some ⟨rt, s.gprAt rt, false⟩ } }

/-- What a load may change besides its destination: the write buffer is emptied and D-cache lines are filled when it
reaches the bus; every byte of memory, buffered stores included, is as before. -/
def LoadFrame (s t : State) (rt : Reg) : Prop :=
  SameMemory s t ∧
    t = { s with
          gpr := t.gpr, mem := t.mem, wbuf := t.wbuf, dcache := t.dcache
          pc := s.npc, npc := s.npc + 4, inDelay := false
          pipe := { s.pipe with
            this := .memory
            gprLate := if rt = 0 then s.pipe.gprLate else some ⟨rt, s.gprAt rt, true⟩ } }

/-- `r` answers a next state in which `rt` is loaded with `v`, read at `pa`, one instruction late (R263), and nothing else
but what a load may change. -/
def LoadsGpr (s : State) (r : Result) (rt : Reg) (v : Word) (uncached : Bool) (pa : Word) : Prop :=
  ∃ t, r = .next t ∧ t.gprAt rt = (if rt = 0 then 0 else v) ∧ (∀ q, q ≠ rt → t.gprAt q = s.gprAt q) ∧
    LoadFrame s t rt ∧ ReadLeaves s t uncached pa

/-- Everything a store leaves alone: all but memory, the write buffer and the D-cache. -/
def StoreFrame (s t : State) : Prop :=
  t = { s with
        mem := t.mem, wbuf := t.wbuf, dcache := t.dcache
        pc := s.npc, npc := s.npc + 4, inDelay := false
        pipe := { s.pipe with this := .memory } }

/-- `a` is one of the bytes the lanes `be` of the word at `pa` lie at (20_memory.md R102). -/
def InLanes (s : State) (pa : Word) (be : BitVec 4) (a : Word) : Prop :=
  ∃ k, k < 4 ∧ be.getLsbD k = true ∧ a = laneAddr s.cfg.bigEndian (wordAddr pa) k

/-- `r` answers a next state in which the lanes `be` of the word at `pa` hold those of `data`, where the board has RAM
there; every other byte and everything else a store leaves alone are as before. -/
def StoresLanes (s : State) (r : Result) (pa data : Word) (be : BitVec 4) : Prop :=
  ∃ t, r = .next t ∧ StoreFrame s t ∧
    (∀ k, k < 4 → be.getLsbD k = true →
      regionKind s.cfg (laneAddr s.cfg.bigEndian (wordAddr pa) k) = .ram →
      t.settledByte (laneAddr s.cfg.bigEndian (wordAddr pa) k) = data.extractLsb' (8 * k) 8) ∧
    ∀ a, ¬ InLanes s pa be a → t.settledByte a = s.settledByte a

/-- `r` answers a next state whose next instruction is the delay slot, with `npc` the address after it (44_branch_jump.md
R300); nothing else changes. -/
def BranchesTo (s : State) (r : Result) (npc : Word) : Prop :=
  ∃ t, r = .next t ∧ (∀ q, t.gprAt q = s.gprAt q) ∧ SameMemory s t ∧
    t = { s with pc := s.npc, npc := npc, inDelay := true }

/-- The same with `pc + 8` written to the link register `rd` (R303). -/
def LinksAndBranchesTo (s : State) (r : Result) (rd : Reg) (npc : Word) : Prop :=
  ∃ t, r = .next t ∧ t.gprAt rd = (if rd = 0 then 0 else s.pc + 8) ∧ (∀ q, q ≠ rd → t.gprAt q = s.gprAt q) ∧
    SameMemory s t ∧ t = { s with gpr := t.gpr, pc := s.npc, npc := npc, inDelay := true }

/-- The target of a branch: the delay slot's address and the offset in words (30_encoding.md R164). -/
def branchAddress (s : State) (offset : BitVec 16) : Word :=
  BitVec.ofInt 32 (((s.pc + 4).toNat : Int) + 4 * offset.toInt)

/-! ## Multiply and divide -/

/-- `r` answers a next state with HI and LO holding `hi` and `lo`, not read yet. A general register changes only if an
`mfhi` or `mflo` wrote it at most two instructions ago: it holds what it held, or the new HI or LO (42_muldiv.md R256). -/
def WritesHiLo (s : State) (r : Result) (hi lo : Word) : Prop :=
  ∃ t, r = .next t ∧ t.hi = hi ∧ t.lo = lo ∧ t.pipe.hiloFresh = true ∧
    (∀ q, t.gprAt q = s.gprAt q ∨ ∃ x ∈ s.pipe.hiloReads, x.rd = q ∧ t.gprAt q = if x.isHi then hi else lo) ∧
    SameMemory s t ∧
    t = { s with
          gpr := t.gpr, hi := hi, lo := lo, pc := s.npc, npc := s.npc + 4, inDelay := false
          pipe := { s.pipe with hiloReads := t.pipe.hiloReads, hiloFresh := true } }

/-! ## Floating point -/

/-- FCR31 after a computational instruction that is performed without a trap (46_coprocessor_fpa.md R380): UnImp clear,
Cause is `exc`, Flags collect it, RM, Enables and C as before. -/
def FcrAfter (old new : Word) (exc : BitVec 5) : Prop :=
  fcrUnimp new = false ∧ fcrCause new = exc ∧ fcrFlags new = fcrFlags old ||| exc ∧
    new &&& 0xFFFC0F83 = old &&& 0xFFFC0F83

/-- The even register `fd` holds the low word of `v`, the odd one the high word of a double (after a single or a word
result it is open); every other FP register is as before (R375). -/
def FprAfter (s t : State) (isDouble : Bool) (fd : Reg) (v : BitVec 64) : Prop :=
  t.fprAt fd = v.extractLsb' 0 32 ∧ (isDouble = true → t.fprAt (fd ||| 1) = v.extractLsb' 32 32) ∧
    ∀ q, q ≠ fd → q ≠ fd ||| 1 → t.fprAt q = s.fprAt q

/-- `r` delivers the FP result `v` with the exceptions `exc`; only the destination pair and FCR31 change. -/
def FpDelivers (s : State) (r : Result) (isDouble : Bool) (fd : Reg) (v : BitVec 64) (exc : BitVec 5) : Prop :=
  ∃ t, r = .next t ∧ FprAfter s t isDouble fd v ∧ FcrAfter s.fcr31 t.fcr31 exc ∧ (∀ q, t.gprAt q = s.gprAt q) ∧
    SameMemory s t ∧
    t = { s with fpr := t.fpr, fcr31 := t.fcr31, pc := s.npc, npc := s.npc + 4, inDelay := false }

/-- The value of a sign, a significand and an exponent. -/
def fpValue (neg : Bool) (m : Nat) (e : Int) : ℚ := (if neg then -1 else 1) * m * (2 : ℚ) ^ e

/-- `q` is the integer that the rounding mode gives for `x` (10_state.md R76): nearest with ties to even, towards zero, up,
down. -/
def RoundsTo (rm : BitVec 2) (x : ℚ) (q : ℤ) : Prop :=
  match rm.toNat with
  | 0 => |x - q| ≤ 1 / 2 ∧ (|x - q| = 1 / 2 → q % 2 = 0)
  | 1 => q = if 0 ≤ x then ⌊x⌋ else ⌈x⌉
  | 2 => q = ⌈x⌉
  | _ => q = ⌊x⌋

/-- `v` holds the number `x` that is not zero. -/
def HoldsNumber (f : FpFormat) (v : BitVec 64) (x : ℚ) : Prop := ∃ n m e, f.unpack v = .finite n m e ∧ fpValue n m e = x

/-- What an overflow of the exact value `x` delivers (46_coprocessor_fpa.md R378): the infinity or the largest number of its
sign. -/
def HoldsOverflow (f : FpFormat) (rm : BitVec 2) (v : BitVec 64) (x : ℚ) : Prop :=
  if rm = 0 ∨ (rm = 2 ∧ 0 < x) ∨ (rm = 3 ∧ x < 0) then f.unpack v = .inf (decide (x < 0))
  else HoldsNumber f v (fpValue (decide (x < 0)) (2 ^ (f.mant + 1) - 1) (f.emax - f.mant))

/-- `v` and `exc` are the IEEE 754 result of the exact value `x` (R378): a zero of the sign given; else the value is rounded
once to the format's precision, with I when that changes it, or it overflows, with O and I. -/
def IeeeResult (f : FpFormat) (rm : BitVec 2) (zeroNeg : Bool) (x : ℚ) (v : BitVec 64) (exc : BitVec 5) : Prop :=
  if x = 0 then f.unpack v = .finite zeroNeg 0 0 ∧ exc = 0
  else ∃ e q : ℤ, (2 : ℚ) ^ f.mant * 2 ^ e ≤ |x| ∧ |x| < (2 : ℚ) ^ (f.mant + 1) * 2 ^ e ∧ RoundsTo rm (x / 2 ^ e) q ∧
    if |(q : ℚ)| * 2 ^ e < 2 ^ (f.emax + 1) then HoldsNumber f v (q * 2 ^ e) ∧ exc = (if q * 2 ^ e = x then 0 else excI)
    else HoldsOverflow f rm v x ∧ exc = excO ||| excI

/-- Neither an overflow nor an inexact result traps. -/
abbrev InexactMasked (s : State) : Prop := fcrEnables s.fcrView &&& (excO ||| excI) = 0

/-- `r` delivers the IEEE 754 result of the exact value `x` in the rounding mode of FCR31. -/
def FpDeliversValue (s : State) (r : Result) (isDouble : Bool) (fd : Reg) (zeroNeg : Bool) (x : ℚ) : Prop :=
  ∃ v exc, IeeeResult (formatOf isDouble) (fcrMode s.fcrView) zeroNeg x v exc ∧ FpDelivers s r isDouble fd v exc

/-- The FPA executes the instruction: coprocessor 1 is usable and present (R370, R372). -/
abbrev FpaReady (s : State) : Prop := s.usable 1 = true ∧ s.cfg.hasFpa = true

/-- The compare sets C to `c` and FCR31 as R380 says; the condition is settled from the second instruction on. -/
def FpCompares (s : State) (r : Result) (c : Bool) : Prop :=
  ∃ t, r = .next t ∧ fcrC t.fcr31 = c ∧ fcrUnimp t.fcr31 = false ∧ fcrCause t.fcr31 = 0 ∧
    t.fcr31 &&& 0xFF7C0FFF = s.fcr31 &&& 0xFF7C0FFF ∧ (∀ q, t.gprAt q = s.gprAt q) ∧ SameMemory s t ∧
    t = { s with
          fcr31 := t.fcr31, pc := s.npc, npc := s.npc + 4, inDelay := false
          pipe := { s.pipe with condWin := 2 } }

/-- The FPA's request is enabled (R432): SR.IEc and the IM bit of the input Config.FPInt names. -/
abbrev FpRequestEnabled (s : State) : Prop :=
  s.cp0.sr.getLsbD 0 = true ∧ s.cp0.sr.getLsbD (10 + (s.cp0.config.extractLsb' 26 3).toNat) = true

/-- `r` ends an FP operation without a result, FCR31 being `f`: the interrupt is taken at the instruction, or the machine
goes on with FCR31 `g`; with no recent `mtc0` it is taken exactly when it is enabled (R432). -/
def FpRequests (s : State) (r : Result) (f g : Word) : Prop :=
  let taken := r = .next (({ s with fcr31 := f } : State).takeException .int)
  let goesOn := r = .next { s with fcr31 := g, pc := s.npc, npc := s.npc + 4, inDelay := false }
  (taken ∨ goesOn) ∧ (NoRecentMtc0 s → (s.cp0.config.extractLsb' 26 3).toNat < 6 →
    (FpRequestEnabled s → taken) ∧ (¬ FpRequestEnabled s → goesOn))

/-- `r` declines an FP operation (R380): UnImp set, every register and the rest of FCR31 but Cause as before; the interrupt
is taken at the instruction, or the machine goes on. -/
def FpDeclines (s : State) (r : Result) : Prop :=
  ∃ f : Word, f.getLsbD 17 = true ∧ f &&& 0xFFFC0FFF = s.fcr31 &&& 0xFFFC0FFF ∧ FpRequests s r f f

/-- `r` ends an FP operation in the enabled exceptions `exc` (R380): the destination is unchanged, UnImp is clear and Cause says
which; when the interrupt is masked, the request stays. -/
def FpTraps (s : State) (r : Result) (exc : BitVec 5) : Prop :=
  ∃ f g : Word, fcrUnimp f = false ∧ fcrCause f = exc ∧ f &&& 0xFFFC0F83 = s.fcr31 &&& 0xFFFC0F83 ∧
    fpRequest g = true ∧ g &&& 0xFFFC0F83 = s.fcr31 &&& 0xFFFC0F83 ∧ FpRequests s r f g

/-- The whole of an operation with the exact value `x` of operands the FPA must take (R379 (b), R380): delivered, an enabled
overflow or inexact trap, or declined where the result underflows (R379 (a)). -/
def FpPerforms (s : State) (r : Result) (isDouble : Bool) (fd : Reg) (zeroNeg : Bool) (x : ℚ) : Prop :=
  let f := formatOf isDouble
  ((x = 0 ∨ (2 : ℚ) ^ f.emin ≤ |x|) → InexactMasked s → FpDeliversValue s r isDouble fd zeroNeg x) ∧
    (∀ v exc, (x = 0 ∨ (2 : ℚ) ^ f.emin ≤ |x|) → IeeeResult f (fcrMode s.fcrView) zeroNeg x v exc →
      s.pipe.fcrShadow = none → exc &&& fcrEnables s.fcr31 ≠ 0 → FpTraps s r exc) ∧
    ∀ q : ℤ, x ≠ 0 → |x| < (2 : ℚ) ^ f.emin → RoundsTo (fcrMode s.fcrView) (x / 2 ^ (f.emin - f.mant)) q →
      |q| < 2 ^ f.mant → FpDeclines s r

/-! ## Coprocessor 0 -/

/-- `r` answers a next state that differs from `s` in coprocessor 0, now `c`, its windows and the micro-TLB, now `held`. -/
def WritesCp0AndHolds (s : State) (r : Result) (c : Cp0) (held : List HeldPage) : Prop :=
  ∃ t, r = .next t ∧ t.cp0 = c ∧ (∀ q, t.gprAt q = s.gprAt q) ∧ SameMemory s t ∧
    t = { s with
          cp0 := c, utlb := held, pc := s.npc, npc := s.npc + 4, inDelay := false
          pipe := { s.pipe with late := t.pipe.late } }

/-- `r` answers a next state that differs from `s` in coprocessor 0, now `c`, and its windows. -/
abbrev WritesCp0 (s : State) (r : Result) (c : Cp0) : Prop := WritesCp0AndHolds s r c s.utlb

/-- The same for what loads EntryHi and so empties the micro-TLB (10_state.md R71). -/
abbrev WritesCp0AndFlushes (s : State) (r : Result) (c : Cp0) : Prop := WritesCp0AndHolds s r c []

/-- A move from coprocessor 0 of a register that runs with the clock: only `rt`, the pending-load slot and coprocessor 0, now
`c`, change. -/
def MovesToGprWith (s : State) (r : Result) (rt : Reg) (v : Word) (c : Cp0) : Prop :=
  ∃ t, r = .next t ∧ t.gprAt rt = (if rt = 0 then 0 else v) ∧ (∀ q, q ≠ rt → t.gprAt q = s.gprAt q) ∧
    SameMemory s t ∧
    t = { s with
          gpr := t.gpr, cp0 := c, pc := s.npc, npc := s.npc + 4, inDelay := false
          pipe := { s.pipe with gprLate := if rt = 0 then s.pipe.gprLate else some ⟨rt, s.gprAt rt, false⟩ } }

/-- One clock of Count (10_state.md R53). -/
def countClock (compare c : BitVec 24) : BitVec 24 := if c = compare then 0 else c + 1

/-- The R3041's timer after some clocks (R53, R55): Count has run, and in level mode (BusCtrl.TC) Tc* is asserted from the
clock at which Count was equal to Compare. -/
def TimerRuns (c d : Cp0) : Prop :=
  ∃ k, d = { c with count := (countClock c.compare)^[k] c.count, tcOut := d.tcOut } ∧
    (d.tcOut = true ↔ c.tcOut = true ∨
      (c.busCtrl.getLsbD 14 = true ∧ ∃ j, j < k ∧ (countClock c.compare)^[j] c.count = c.compare))

/-- No member has a register of this number (10_state.md R26), or this one has none. -/
abbrev NoCp0Register (c : Config) (n : Reg) : Prop :=
  n.toNat ∈ [5, 6, 7] ∨ 16 ≤ n.toNat ∨ (n.toNat ∈ [0, 1, 4] ∧ c.hasMmu = false) ∨
    (n.toNat ∈ [9, 11] ∧ c.is3041 = false) ∨ (n.toNat ∈ [2, 10] ∧ c.hasMmu = false ∧ c.is3041 = false) ∨
    (n.toNat = 3 ∧ c.is3041 = false ∧ c.hasConfig7181 = false)

/-- Coprocessor 0 but for SR.TS and SR.CM, which hardware sets at an access (10_state.md R35, R37). -/
def SameCp0 (a b : Cp0) : Prop :=
  ({ a with sr := 0 } : Cp0) = { b with sr := 0 } ∧ a.sr &&& 0xFFD7FFFF = b.sr &&& 0xFFD7FFFF

end Sys2Proof
end

