-- ==== Sys2Proof/Certificates/Slice0/Obligations.lean ====
section
/-! DEFINITION. The statements about this machine, for the provers. Operands are read through `State.src` and
`State.srcFpr`: what they read is said by `SourceOperandReads`. -/

open Sys2Proof Sys2Proof.Machine

/-! ## Reset and invariants -/

/-- After reset, for every configuration: kernel mode, interrupts off, BEV set, TS set exactly on a part without the TLB,
the reset vector, Random 63, Compare all ones, Config.FPInt 3 on the R3081, the locks open (R571; the place of BusCtrl.Lock is log entry 8). -/
def Obligations.ResetGuarantees : Prop :=
  ∀ c : Config, let s := State.resetOf c
    s.pc = 0xBFC00000 ∧ s.npc = 0xBFC00004 ∧ s.inDelay = false ∧
    s.cp0.sr.getLsbD 1 = false ∧ s.cp0.sr.getLsbD 0 = false ∧ s.cp0.sr.getLsbD 22 = true ∧
    s.cp0.sr.getLsbD 21 = !c.hasMmu ∧ s.cp0.random = 63 ∧
    (c.member = .r3041 → s.cp0.compare = 0xFFFFFF) ∧
    (c.member = .r3081 → s.cp0.config.extractLsb' 26 3 = 0b011) ∧
    s.cp0.config.getLsbD 31 = false ∧ s.cp0.busCtrl.getLsbD 31 = false ∧
    s.cp0Stored 15 = c.prid ∧ (c.hasFpa = true → s.fcrRead 0 = c.fcr0)

/-- The invariant holds after reset; the reset values the spec does not give are the model's (log entries 1 to 9). -/
def Obligations.ResetEstablishesInvariant : Prop := ∀ c : Config, MachineInv (State.resetOf c)

/-- Every step keeps it, and what the implementation fixes (PRId and FCR0 among it). -/
def Obligations.StepKeepsInvariant : Prop :=
  ∀ s t, MachineInv s → Sys2Proof.Machine.step s = .next t → MachineInv t ∧ t.cfg = s.cfg

/-! ## Encoding -/

/-- Decoding the encoder's word gives the instruction back, whatever the operands. -/
def Obligations.DecodeOfEncode : Prop := ∀ i : Instr, decodeWord (encode i) = .ok i

/-- A word decodes to an instruction of the one table row it matches; a word that matches no row is refused. -/
def Obligations.DecodeFollowsOpcodeTable : Prop :=
  (∀ w i, decodeWord w = .ok i → w &&& (opcodeRow i).mask = (opcodeRow i).value) ∧
  ∀ w j, w &&& (opcodeRow j).mask = (opcodeRow j).value → ∃ i, decodeWord w = .ok i ∧ opcodeRow i = opcodeRow j

/-- Example words of the spec decode to the instructions it says. -/
def Obligations.DecodeOfSpecWords : Prop :=
  decodeWord 0x012A4020 = .ok (.add 8 9 10) ∧ decodeWord 0x00094100 = .ok (.sll 8 9 4) ∧
  decodeWord 0x01494004 = .ok (.sllv 8 9 10) ∧ decodeWord 0x012A0018 = .ok (.mult 9 10) ∧
  decodeWord 0x8D280004 = .ok (.lw 8 4 9) ∧ decodeWord 0xA8180001 = .ok (.swl 24 1 0) ∧
  decodeWord 0x1509FFFF = .ok (.bne 8 9 0xFFFF) ∧ decodeWord 0x0C040010 = .ok (.jal 0x40010) ∧
  decodeWord 0x40086000 = .ok (.mfc0 8 12) ∧ decodeWord 0x42000010 = .ok .rfe ∧
  decodeWord 0x46041000 = .ok (.addS 0 2 4) ∧ decodeWord 0xC5220018 = .ok (.lwc1 2 24 9)

/-- A word of no row: reserved instruction, after the usability check for a coprocessor's word (R175, R381; the spec's
decision D6, log entry 30). So are the loads, stores and moves that are not valid for CP0 and CP3 (R339, R360; its
decision D24, log entry 31). -/
def Obligations.UnassignedWordsRaiseRI : Prop :=
  (∀ w s,
    (∀ op, decodeWord w = .error (.reservedOpcode op) → Raises s (runWord w s) .ri) ∧
    (∀ f, decodeWord w = .error (.reservedFunct f) → Raises s (runWord w s) .ri) ∧
    (∀ r, decodeWord w = .error (.reservedRegimm r) → Raises s (runWord w s) .ri) ∧
    (∀ z rs rt, decodeWord w = .error (.reservedCopMove z rs rt) →
      Raises s (runWord w s) (if s.usable z then .ri else .cpu z)) ∧
    (∀ f, decodeWord w = .error (.reservedCop0Operation f) →
      Raises s (runWord w s) (if s.usable 0 then .ri else .cpu 0))) ∧
  ∀ s rt rd offset base,
    Raises s (exec (.lwc0 rt offset base) s) .ri ∧ Raises s (exec (.swc0 rt offset base) s) .ri ∧
    Raises s (exec (.mfc3 rt rd) s) .ri ∧ Raises s (exec (.swc3 rt offset base) s) .ri ∧
    (s.usable 0 = true → Raises s (exec (.cfc0 rt rd) s) .ri ∧ Raises s (exec (.ctc0 rt rd) s) .ri)

/-! ## The step -/

/-- When the CPU steps, no interrupt is due and the word fetched decodes to `i`, the step is `exec` of `i`. The fetch
itself moves the in-flight state on one instruction and, in a window of R599, runs the R3041 timer (`State.begin`); it may
touch the write buffer, the I-cache and the micro-TLB (`State.fetch`). -/
def Obligations.StepRunsDecodedInstruction : Prop :=
  ∀ s w t i, s.events = [] → s.halted = false → s.interruptPending = false → s.begin.fetch = .done w t →
    decodeWord w = .ok i → Sys2Proof.Machine.step s = exec i t

/-- What a fetch answers comes from the translated address: uncached, the word of memory after every earlier store; on
an I-cache hit the line's word; on a miss memory's word (R134). A miss fills the line with its four words and no other
line, anything else leaves the I-cache alone (R126). -/
def Obligations.FetchDeliversInstructionWord : Prop :=
  ∀ s pa u held, s.translateFetch s.pc = (.ok pa u, held) → LineIsMemory s pa → s.swapped = false →
    ∃ t, s.fetch = .done (if u then s.settledWord pa else if s.iHit pa then (s.iLine pa).word pa else s.memWord pa) t ∧
      SameMemory s t ∧ t = { s with utlb := held, mem := t.mem, wbuf := t.wbuf, icache := t.icache } ∧
      (if u then t.wbuf = [] else t.wbuf = s.wbuf ∧ t.mem = s.mem) ∧
      (u = true ∨ s.iHit pa = true → t.icache = s.icache) ∧
      (u = false → s.iHit pa = false → sparseWf ILine.blank s.icache = true →
        t.iHit pa = true ∧ (∀ a, blockAddr a = blockAddr pa → (t.iLine pa).word a = s.memWord a) ∧
        ∀ a, s.iIndex a ≠ s.iIndex pa → t.iLine a = s.iLine a)

/-- Cause.IP follows the pins, but for the one Config.FPInt gives the FPA, which follows its request (R48, R59, R432).
With no recent write of SR or Cause, a CPU step takes the interrupt exactly when R522 says, with nothing of the
instruction at `pc` done (R526); but the register of an `mfhi` or `mflo` just before it holds what was read or the half that
the next instruction or the one behind it leaves (R256, the spec's decision D28, log entry 24). -/
def Obligations.InterruptTakenBeforeInstruction : Prop :=
  (∀ s, NoRecentMtc0 s → ∀ k, k < 6 →
    (s.cfg.hasFpa = false → s.ipBits.getLsbD (10 + k) = s.pins.int.getLsbD k) ∧
    (s.cfg.hasFpa = true → (s.cp0.config.extractLsb' 26 3).toNat < 6 → s.ipBits.getLsbD (10 + k) =
      if (s.cp0.config.extractLsb' 26 3).toNat = k
        then (s.fcr31.getLsbD 17 || (s.fcr31.extractLsb' 12 5 &&& s.fcr31.extractLsb' 7 5 != 0))
        else s.pins.int.getLsbD k)) ∧
  ∀ s, s.events = [] → s.halted = false → NoRecentMtc0 s →
    let ip := s.ipBits ||| (s.cp0.cause &&& 0x300)
    (s.cp0.sr.getLsbD 0 = true → ip &&& s.cp0.sr &&& 0xFF00 ≠ 0 →
      (s.pipe.hiloReads = [] → Sys2Proof.Machine.step s = .next (s.draw.takeException .int)) ∧
      ∃ t : State, Sys2Proof.Machine.step s = .next (t.takeException .int) ∧ t = { s.draw with gpr := t.gpr } ∧
        ∀ q, t.gprAt q = s.gprAt q ∨ ∃ x ∈ s.pipe.hiloReads, x.age = 0 ∧ x.rd = q ∧
          (t.gprAt q = x.half s.rotated.passed ∨ t.gprAt q = x.half s.rotated.passed.rotated.passed)) ∧
    ((s.cp0.sr.getLsbD 0 = false ∨ ip &&& s.cp0.sr &&& 0xFF00 = 0) →
      Sys2Proof.Machine.step s = s.begin.fetch.andThen runWord)

/-- Config.Halt holds the core until an interrupt input is asserted (R60). That only the pins wake it, not a software
interrupt bit nor the FPA's request, and that Halt then reads 0, rest on the spec's decision D16 (log entry 42). -/
def Obligations.HaltWaitsForInterruptInput : Prop :=
  ∀ s, s.events = [] → s.cfg.hasConfig7181 = true → s.cp0.config.getLsbD 25 = true →
    (s.pins.int = 0 → Sys2Proof.Machine.step s = .next s) ∧
    (s.pins.int ≠ 0 → ∃ t, Sys2Proof.Machine.step s = .next t ∧ t.halted = false ∧ t.pc = s.pc ∧ t.gpr = s.gpr ∧
      t.mem = s.mem ∧ t.cp0.sr = s.cp0.sr ∧ t.cp0.config &&& 0xFDFFFFFF = s.cp0.config &&& 0xFDFFFFFF)

/-- A warm reset (R572, R571): registers not being loaded, HI, LO, the TLB and, as the choice of log entry 43 says for the
buffered stores, memory are kept; EPC is the address of the instruction that was executing. -/
def Obligations.WarmResetKeepsMostState : Prop :=
  ∀ s d i rest, s.events = .reset d i :: rest → ∃ t, Sys2Proof.Machine.step s = .next t ∧
    t.pc = 0xBFC00000 ∧ t.inDelay = false ∧ t.cp0.epc = s.pc ∧ t.cp0.random = 63 ∧
    t.cp0.sr.getLsbD 0 = false ∧ t.cp0.sr.getLsbD 1 = false ∧ t.cp0.sr.getLsbD 22 = true ∧
    t.cp0.sr.getLsbD 21 = !s.cfg.hasMmu ∧ t.hi = s.hi ∧ t.lo = s.lo ∧ t.tlb = s.tlb ∧
    (∀ q, (∀ l, s.pipe.gprLate = some l → l.reg ≠ q) → t.gprAt q = s.gprAt q) ∧
    (∀ q, (∀ l, s.pipe.fprLate = some l → l.reg ≠ q) → t.fprAt q = s.fprAt q) ∧
    (∀ k, d ≠ some k → t.dLineAt k = s.dLineAt k) ∧ (∀ k, i ≠ some k → t.iLineAt k = s.iLineAt k) ∧
    (t.mem = s.mem ∨ ∀ a, t.byteAt a = s.settledByte a) ∧ t.events = rest

/-- The hazard windows close: after four instructions that leave nothing new, no earlier value is seen any more. -/
def Obligations.HazardWindowsClose : Prop :=
  ∀ p : Pipe, let q := p.rotate.rotate.rotate.rotate
    q.gprShadow = none ∧ q.fprShadow = none ∧ q.fcrShadow = none ∧ q.late = [] ∧ q.tlbLate = [] ∧ q.hiloReads = [] ∧
    q.condWin = p.condWin - 4

/-! ## Operands -/

/-- A source register reads as its contents, `$0` as zero; in the slot of a pending load of it, as the old or the loaded
value (log entry 15); `lwl` and `lwr` merge into the loaded value, and behind a move from a coprocessor into the old or the
moved one (R21, R590). The FP registers likewise (R596). -/
def Obligations.SourceOperandReads : Prop :=
  ∀ (s : State) (r : Reg),
    s.src 0 = 0 ∧
    ((∀ l, s.pipe.gprShadow = some l → l.reg ≠ r) → s.src r = s.gprAt r) ∧
    (∀ l, s.pipe.gprShadow = some l → l.reg = r → r ≠ 0 → s.src r = l.old ∨ s.src r = s.gprAt r) ∧
    ((∀ l, s.pipe.gprShadow = some l → l.reg ≠ r) → s.mergeSrc r = s.gprAt r) ∧
    (∀ l, s.pipe.gprShadow = some l → l.isLoad = true → s.mergeSrc r = s.gprAt r) ∧
    (∀ l, s.pipe.gprShadow = some l → l.reg = r → r ≠ 0 → l.isLoad = false →
      s.mergeSrc r = l.old ∨ s.mergeSrc r = s.gprAt r) ∧
    ((∀ l, s.pipe.fprShadow = some l → l.reg ≠ r) → s.srcFpr r = s.fprAt r) ∧
    ∀ l, s.pipe.fprShadow = some l → l.reg = r → s.srcFpr r = l.old ∨ s.srcFpr r = s.fprAt r

/-! ## Integer arithmetic -/

/-- `add`, `addi`, `sub`: Ov when the signs say overflow, whatever the destination; else the wrapped result (R201, R203,
R205, R207). -/
def Obligations.TrappingArithmetic : Prop :=
  ∀ s rd rs rt (imm : BitVec 16), let a := s.src rs; let b := s.src rt; let i := imm.signExtend 32
    (a.msb = b.msb ∧ (a + b).msb ≠ a.msb → Raises s (exec (.add rd rs rt) s) .ov) ∧
    (¬ (a.msb = b.msb ∧ (a + b).msb ≠ a.msb) → WritesGpr s (exec (.add rd rs rt) s) rd (a + b)) ∧
    (a.msb = i.msb ∧ (a + i).msb ≠ a.msb → Raises s (exec (.addi rd rs imm) s) .ov) ∧
    (¬ (a.msb = i.msb ∧ (a + i).msb ≠ a.msb) → WritesGpr s (exec (.addi rd rs imm) s) rd (a + i)) ∧
    (a.msb ≠ b.msb ∧ (a - b).msb ≠ a.msb → Raises s (exec (.sub rd rs rt) s) .ov) ∧
    (¬ (a.msb ≠ b.msb ∧ (a - b).msb ≠ a.msb) → WritesGpr s (exec (.sub rd rs rt) s) rd (a - b))

/-- The register forms that never trap (R204, R206, R209-R212, R217, R218). -/
def Obligations.RegisterArithmeticResult : Prop :=
  ∀ s rd rs rt, let a := s.src rs; let b := s.src rt
    WritesGpr s (exec (.addu rd rs rt) s) rd (BitVec.ofNat 32 (a.toNat + b.toNat)) ∧
    WritesGpr s (exec (.subu rd rs rt) s) rd (BitVec.ofInt 32 (a.toInt - b.toInt)) ∧
    WritesGpr s (exec (.and rd rs rt) s) rd (a &&& b) ∧
    WritesGpr s (exec (.or rd rs rt) s) rd (a ||| b) ∧
    WritesGpr s (exec (.xor rd rs rt) s) rd (a ^^^ b) ∧
    WritesGpr s (exec (.nor rd rs rt) s) rd (~~~a &&& ~~~b) ∧
    WritesGpr s (exec (.slt rd rs rt) s) rd (if a.toInt < b.toInt then 1 else 0) ∧
    WritesGpr s (exec (.sltu rd rs rt) s) rd (if a.toNat < b.toNat then 1 else 0)

/-- The immediate forms that never trap (R208, R213-R216, R219, R220). -/
def Obligations.ImmediateArithmeticResult : Prop :=
  ∀ s rt rs (imm : BitVec 16), let a := s.src rs
    WritesGpr s (exec (.addiu rt rs imm) s) rt (BitVec.ofInt 32 (a.toInt + imm.toInt)) ∧
    WritesGpr s (exec (.andi rt rs imm) s) rt (0#16 ++ (a.extractLsb' 0 16 &&& imm)) ∧
    WritesGpr s (exec (.ori rt rs imm) s) rt (a.extractLsb' 16 16 ++ (a.extractLsb' 0 16 ||| imm)) ∧
    WritesGpr s (exec (.xori rt rs imm) s) rt (a.extractLsb' 16 16 ++ (a.extractLsb' 0 16 ^^^ imm)) ∧
    WritesGpr s (exec (.lui rt imm) s) rt (imm ++ 0#16) ∧
    WritesGpr s (exec (.slti rt rs imm) s) rt (if a.toInt < imm.toInt then 1 else 0) ∧
    WritesGpr s (exec (.sltiu rt rs imm) s) rt (if a.toNat < (imm.signExtend 32 : Word).toNat then 1 else 0)

/-- The shifts; a variable amount is the low five bits of `rs` (R230-R236). -/
def Obligations.ShiftResult : Prop :=
  ∀ s rd rt rs (sa : BitVec 5), let v := s.src rt; let n := (s.src rs).toNat % 32
    WritesGpr s (exec (.sll rd rt sa) s) rd (BitVec.ofNat 32 (v.toNat * 2 ^ sa.toNat)) ∧
    WritesGpr s (exec (.srl rd rt sa) s) rd (BitVec.ofNat 32 (v.toNat / 2 ^ sa.toNat)) ∧
    WritesGpr s (exec (.sra rd rt sa) s) rd (BitVec.ofInt 32 (v.toInt / 2 ^ sa.toNat)) ∧
    WritesGpr s (exec (.sllv rd rt rs) s) rd (BitVec.ofNat 32 (v.toNat * 2 ^ n)) ∧
    WritesGpr s (exec (.srlv rd rt rs) s) rd (BitVec.ofNat 32 (v.toNat / 2 ^ n)) ∧
    WritesGpr s (exec (.srav rd rt rs) s) rd (BitVec.ofInt 32 (v.toInt / 2 ^ n))

/-! ## Multiply and divide -/

/-- `mult` and `multu`: HI and LO are the exact 64-bit product (R243, R244). The register of an `mfhi` or `mflo` just before
holds what was read or the new half (R256, the spec's decision D28, log entry 24). -/
def Obligations.MultiplyResult : Prop :=
  ∀ s rs rt, let a := s.src rs; let b := s.src rt
    (∃ hi lo, WritesHiLo s (exec (.mult rs rt) s) hi lo ∧ (hi ++ lo : BitVec 64).toInt = a.toInt * b.toInt) ∧
    (∃ hi lo, WritesHiLo s (exec (.multu rs rt) s) hi lo ∧ (hi ++ lo : BitVec 64).toNat = a.toNat * b.toNat)

/-- `divu` and `div` with a divisor that is not zero: quotient in LO, remainder in HI; signed division rounds towards
zero, the remainder has the dividend's sign, and 0x80000000 / -1 is 0x80000000 with remainder 0 (R245, R246; R248 is the
spec's inference, its decision D10). Division by zero (log entry 26) goes on: HI and LO take some values, and nothing else
becomes undefined (R247). The register of an `mfhi` or `mflo` just before is as for `mult` (D28, log entry 24). -/
def Obligations.DivideResult : Prop :=
  ∀ s rs rt, let a := s.src rs; let b := s.src rt
    (b ≠ 0 →
      WritesHiLo s (exec (.divu rs rt) s) (BitVec.ofNat 32 (a.toNat % b.toNat)) (BitVec.ofNat 32 (a.toNat / b.toNat)) ∧
      ∃ hi lo, WritesHiLo s (exec (.div rs rt) s) hi lo ∧
        if a = 0x80000000 ∧ b = 0xFFFFFFFF then lo = 0x80000000 ∧ hi = 0
        else a.toInt = lo.toInt * b.toInt + hi.toInt ∧ hi.toInt.natAbs < b.toInt.natAbs ∧ (hi = 0 ∨ hi.msb = a.msb)) ∧
    (b = 0 →
      (∃ hi lo, WritesHiLo s (exec (.div rs rt) s) hi lo) ∧ ∃ hi lo, WritesHiLo s (exec (.divu rs rt) s) hi lo)

/-- `mfhi` and `mflo` (R249, R250) write the register and leave the marks of R256 and R258; `mthi` and `mtlo` (R251,
R252) keep the companion, unless a multiply or divide has not been read (R258, log entry 25). A write of HI within two instructions of an
`mfhi` of it: that register then holds what was read, or the new HI (R256, log entry 24); with LO the same. -/
def Obligations.MovesOfHiLo : Prop :=
  (∀ s rd, ∀ isHi : Bool, let v := if isHi then s.hi else s.lo
    ∃ t, exec (if isHi then .mfhi rd else .mflo rd) s = .next t ∧ t.gprAt rd = (if rd = 0 then 0 else v) ∧
      (∀ q, q ≠ rd → t.gprAt q = s.gprAt q) ∧ SameMemory s t ∧
      t = { s with
            gpr := t.gpr, pc := s.npc, npc := s.npc + 4, inDelay := false
            pipe := { s.pipe with hiloFresh := false, hiloReads := ⟨rd, isHi, v, 0⟩ :: s.pipe.hiloReads } }) ∧
  (∀ s rs, ∀ toHi : Bool, ∃ t, exec (if toHi then .mthi rs else .mtlo rs) s = .next t ∧
    (if toHi then t.hi else t.lo) = s.src rs ∧
    (s.pipe.hiloFresh = false → (if toHi then t.lo else t.hi) = (if toHi then s.lo else s.hi)) ∧
    (∀ q, (∀ x ∈ s.pipe.hiloReads, x.rd ≠ q ∨ x.isHi ≠ toHi) → t.gprAt q = s.gprAt q) ∧ SameMemory s t ∧
    t = { s with
          gpr := t.gpr, hi := t.hi, lo := t.lo, pc := s.npc, npc := s.npc + 4, inDelay := false
          pipe := { s.pipe with hiloReads := t.pipe.hiloReads, hiloFresh := false } }) ∧
  ∀ s t rs x, ∀ toHi : Bool, s.pipe.hiloReads = [x] → s.gprAt x.rd = x.value → x.isHi = toHi →
    exec (if toHi then .mthi rs else .mtlo rs) s = .next t → t.gprAt x.rd = x.value ∨ t.gprAt x.rd = s.src rs

/-! ## Loads and stores -/

/-- A translation keeps the offset in the page, and the lane of a byte access is memory's byte at the translated address,
or in user mode with SR.RE at that address exclusive-or 3 (R102, R103, R112, R261). -/
def Obligations.ByteAccessReachesItsByte : Prop :=
  ∀ (s : State) va st pa u, s.translate va st = .ok pa u →
    pa.extractLsb' 0 12 = va.extractLsb' 0 12 ∧
    (s.memWord pa).extractLsb' (8 * s.byteLane va) 8 =
      s.byteAt (if s.bigEndianCpu = s.cfg.bigEndian then pa else pa ^^^ 3)

/-- The aligned loads of memory, cached or not (R261, R265-R269): the word delivered, its byte or halfword of the lane
R261 computes, extended; and what the read does to the D-cache and the write buffer (R127, R129, R132, R139). -/
def Obligations.AlignedLoadResult : Prop :=
  ∀ s rt base (offset : BitVec 16) pa u, let va := s.src base + offset.signExtend 32
    MayAccess s → NormalCaches s → s.translate va false = .ok pa u → LineIsMemory s pa →
    let w := s.deliveredWord u pa
    let k := va.toNat % 4
    let b := if s.bigEndianCpu then 3 - k else k
    let h := if s.bigEndianCpu then 2 - k else k
    LoadsGpr s (exec (.lb rt offset base) s) rt ((w.extractLsb' (8 * b) 8).signExtend 32) u pa ∧
    LoadsGpr s (exec (.lbu rt offset base) s) rt ((w.extractLsb' (8 * b) 8).setWidth 32) u pa ∧
    (k % 2 = 0 → LoadsGpr s (exec (.lh rt offset base) s) rt ((w.extractLsb' (8 * h) 16).signExtend 32) u pa) ∧
    (k % 2 = 0 → LoadsGpr s (exec (.lhu rt offset base) s) rt ((w.extractLsb' (8 * h) 16).setWidth 32) u pa) ∧
    (k = 0 → LoadsGpr s (exec (.lw rt offset base) s) rt w u pa)

/-- `lwl` and `lwr`, any address (R275-R277): `byte` of R275 bytes of the register are replaced. -/
def Obligations.UnalignedLoadResult : Prop :=
  ∀ s rt base (offset : BitVec 16) pa u, let va := s.src base + offset.signExtend 32
    MayAccess s → NormalCaches s → s.translate va false = .ok pa u → LineIsMemory s pa →
    let w := s.deliveredWord u pa
    let r := s.mergeSrc rt
    let byte := if s.bigEndianCpu then 3 - va.toNat % 4 else va.toNat % 4
    LoadsGpr s (exec (.lwl rt offset base) s) rt
      (match byte with
        | 0 => w.extractLsb' 0 8 ++ r.extractLsb' 0 24
        | 1 => w.extractLsb' 0 16 ++ r.extractLsb' 0 16
        | 2 => w.extractLsb' 0 24 ++ r.extractLsb' 0 8
        | _ => w) u pa ∧
    LoadsGpr s (exec (.lwr rt offset base) s) rt
      (match byte with
        | 0 => w
        | 1 => r.extractLsb' 24 8 ++ w.extractLsb' 8 24
        | 2 => r.extractLsb' 16 16 ++ w.extractLsb' 16 16
        | _ => r.extractLsb' 8 24 ++ w.extractLsb' 24 8) u pa

/-- The integer stores (R262, R270-R272, R278, R279) and the FPA's `swc1` (R434): the lanes of the word at the translated
address, and no other byte. -/
def Obligations.StoreResult : Prop :=
  ∀ s rt base (offset : BitVec 16) pa u, let va := s.src base + offset.signExtend 32
    Contents s → MayAccess s → NormalCaches s → s.translate va true = .ok pa u →
    let v := s.src rt
    let k := va.toNat % 4
    let b := if s.bigEndianCpu then 3 - k else k
    let h := if s.bigEndianCpu then 2 - k else k
    StoresLanes s (exec (.sb rt offset base) s) pa (v <<< (8 * b)) (1#4 <<< b) ∧
    (k % 2 = 0 → StoresLanes s (exec (.sh rt offset base) s) pa (v <<< (8 * h)) (3#4 <<< h)) ∧
    (k = 0 → StoresLanes s (exec (.sw rt offset base) s) pa v 0b1111) ∧
    (k = 0 → FpaReady s → StoresLanes s (exec (.swc1 rt offset base) s) pa (s.srcFpr rt) 0b1111) ∧
    StoresLanes s (exec (.swl rt offset base) s) pa (v >>> (8 * (3 - b)))
      (match b with | 0 => 0b0001 | 1 => 0b0011 | 2 => 0b0111 | _ => 0b1111) ∧
    StoresLanes s (exec (.swr rt offset base) s) pa (v <<< (8 * b))
      (match b with | 0 => 0b1111 | 1 => 0b1110 | 2 => 0b1100 | _ => 0b1000)

/-- A word stored and then read at the same physical address and cacheability is the word stored (R133). -/
def Obligations.LoadAfterStore : Prop :=
  ∀ (s : State) va data pa u, Contents s → s.translate va true = .ok pa u → NormalCaches s →
    (∀ a, wordAddr a = wordAddr pa → regionKind s.cfg a = .ram) →
    ∃ t, s.store va data 0b1111 = .done data t ∧ t.deliveredWord u pa = data

/-- A cached word store leaves the line valid with the word; a partial one merges on a hit and leaves the line alone on
a miss (R128). An uncached store leaves the D-cache alone (R129), and none touches the I-cache (R140). -/
def Obligations.CachedStoreUpdatesCache : Prop :=
  ∀ (s : State) pa data (be : BitVec 4), Contents s → NormalCaches s → let t := s.writeData false pa data be
    (be = 0b1111 → t.dHit pa = true ∧ (t.dLine pa).data = data) ∧
    (be ≠ 0b1111 → s.dHit pa = true → t.dHit pa = true ∧ ∀ k, k < 4 →
      (t.dLine pa).data.extractLsb' (8 * k) 8 =
        if be.getLsbD k then data.extractLsb' (8 * k) 8 else (s.dLine pa).data.extractLsb' (8 * k) 8) ∧
    (be ≠ 0b1111 → s.dHit pa = false → t.dcache = s.dcache) ∧
    (∀ a, s.dIndex a ≠ s.dIndex pa → t.dLine a = s.dLine a) ∧
    (s.writeData true pa data be).dcache = s.dcache ∧ ∀ u, (s.writeData u pa data be).icache = s.icache

/-- Isolated, a store touches its cache line only: a word is written with its tag, a part of a word invalidates; a load
always gets the line's data and SR.CM says whether it would have missed; memory, the write buffer and the I-cache are not
touched, and there is no bus error (R143-R145). With the caches swapped as well the I-cache takes the D-cache's place: a word
store writes the word, the tag and the valid bit of its four-word line, a part of a word invalidates the line (R146). -/
def Obligations.IsolatedAccessStaysInCache : Prop :=
  ∀ (s : State) u pa data (be : BitVec 4), Contents s → s.isolated = true →
    (s.swapped = false → let t := s.writeData u pa data be
      t = { s with dcache := t.dcache } ∧ (∀ a, s.dIndex a ≠ s.dIndex pa → t.dLine a = s.dLine a) ∧
      (be = 0b1111 → t.dLine pa = ⟨true, s.dTag pa, data⟩) ∧ (be ≠ 0b1111 → (t.dLine pa).valid = false)) ∧
    (s.swapped = true → let t := s.writeData u pa data be
      t = { s with icache := t.icache } ∧ (∀ a, s.iIndex a ≠ s.iIndex pa → t.iLine a = s.iLine a) ∧
      (be = 0b1111 → t.iHit pa = true ∧ (t.iLine pa).word pa = data ∧
        ∀ a, lineWord a ≠ lineWord pa → (t.iLine pa).word a = (s.iLine pa).word a) ∧
      (be ≠ 0b1111 → (t.iLine pa).valid = false)) ∧
    ∃ t, s.readData u pa = .done (if s.swapped then (s.iLine pa).word pa else (s.dLine pa).data) t ∧
      t.cp0.sr.getLsbD 19 = (!(if s.swapped then s.iHit pa else s.dHit pa)) ∧
      t.cp0.sr &&& 0xFFF7FFFF = s.cp0.sr &&& 0xFFF7FFFF ∧
      t = { s with cp0 := { s.cp0 with sr := t.cp0.sr }, pipe := { s.pipe with late := t.pipe.late } }

/-- A misaligned halfword or word access: address error with the full address, the load's or the store's, and no access
(R110, R512 (c), R513; R357, R358 for `lwc2`, `lwc3` and `swc2`). That `lwc1` and `swc1` make their access, and so take the
address error, on a part without the FPA too is the model's choice (R372, log entry 33). -/
def Obligations.MisalignedAccessRaises : Prop :=
  ∀ s rt base (offset : BitVec 16), let va := s.src base + offset.signExtend 32
    MayAccess s →
    (va.toNat % 2 = 1 → Raises s (exec (.lh rt offset base) s) (.adel va) ∧
      Raises s (exec (.lhu rt offset base) s) (.adel va) ∧ Raises s (exec (.sh rt offset base) s) (.ades va)) ∧
    (va.toNat % 4 ≠ 0 → Raises s (exec (.lw rt offset base) s) (.adel va) ∧
      Raises s (exec (.sw rt offset base) s) (.ades va) ∧
      (s.usable 1 = true → Raises s (exec (.lwc1 rt offset base) s) (.adel va) ∧
        Raises s (exec (.swc1 rt offset base) s) (.ades va)) ∧
      (s.usable 2 = true → Raises s (exec (.lwc2 rt offset base) s) (.adel va) ∧
        Raises s (exec (.swc2 rt offset base) s) (.ades va)) ∧
      (s.usable 3 = true → Raises s (exec (.lwc3 rt offset base) s) (.adel va)))

/-- A load the board answers with an error takes DBE at the load, with the buffered stores written before it: every integer
load, `lwc1`, `lwc2` and `lwc3`, uncached or missing in the D-cache, an error on any word of a block refill included (R122,
R515; R357 for `lwc2` and `lwc3`; D23, log entry 51). That `lwc1` makes its read on a part without the FPA too is the model's
choice (R372, log entry 33). The registers, memory and the D-cache are as before. -/
def Obligations.BusErrorOnLoad : Prop :=
  ∀ s rt base (offset : BitVec 16) pa u, let va := s.src base + offset.signExtend 32
    MayAccess s → NormalCaches s → s.translate va false = .ok pa u → s.servedByCache u pa = false →
    (if u = false ∧ s.blockRefill = true then ∃ k, k < 4 ∧ busError s.cfg false (blockAddr pa + BitVec.ofNat 32 (4 * k)) = true
      else busError s.cfg false pa = true) →
    let fails := fun i : Instr => Raises s.drain (exec i s) .dbe
    (∀ i ∈ [Instr.lb rt offset base, .lbu rt offset base, .lwl rt offset base, .lwr rt offset base], fails i) ∧
    (va.toNat % 2 = 0 → fails (.lh rt offset base) ∧ fails (.lhu rt offset base)) ∧
    (va.toNat % 4 = 0 → fails (.lw rt offset base) ∧ (s.usable 1 = true → fails (.lwc1 rt offset base)) ∧
      (s.usable 2 = true → fails (.lwc2 rt offset base)) ∧ (s.usable 3 = true → fails (.lwc3 rt offset base))) ∧
    let t := s.drain.takeException .dbe
    t.gpr = s.gpr ∧ t.fpr = s.fpr ∧ t.dcache = s.dcache ∧ SameMemory s t ∧ t.cp0.cause.extractLsb' 2 5 = 7

/-- A branch or jump in a delay slot (R301) and a load or store directly after `tlbp` (R347) have no meaning:
they stop (log entries 21, 22). -/
def Obligations.UndefinedSequencesStop : Prop :=
  ∀ s rs rt rd base offset target,
    (s.inDelay = true → ∀ i ∈ [Instr.beq rs rt offset, .bne rs rt offset, .blez rs offset, .bgtz rs offset,
        .bltz rs offset, .bgez rs offset, .bltzal rs offset, .bgezal rs offset, .j target, .jal target, .jr rs,
        .jalr rd rs], exec i s = .fault .branchInDelaySlot) ∧
    (s.pipe.prev = .tlbp → ∀ i ∈ [Instr.lb rt offset base, .lbu rt offset base, .lh rt offset base, .lhu rt offset base,
        .lw rt offset base, .lwl rt offset base, .lwr rt offset base, .sb rt offset base, .sh rt offset base,
        .sw rt offset base, .swl rt offset base, .swr rt offset base], exec i s = .fault .memRefAfterTlbp)

/-! ## The write buffer -/

/-- Retiring the oldest entry changes no settled byte; a new store is seen after all the buffered ones (R130-R132). -/
def Obligations.WriteBufferIsFifo : Prop :=
  ∀ (s : State) e,
    SameMemory s s.retire ∧ SameMemory s s.drain ∧ (s.retire.wbuf = s.wbuf.tail) ∧
    (s.wbuf.length ≤ 4 → (s.pushStore e).wbuf.length ≤ 4) ∧
    ∀ a, (s.pushStore e).settledByte a = ({ s.drain with wbuf := [e] } : State).settledByte a

/-! ## Translation -/

/-- kseg0, kseg1 and the base map (log entry 44); a user access to the upper half is an address error first (R105-R107, R112). -/
def Obligations.FixedTranslation : Prop :=
  ∀ (s : State) (va : Word) (st : Bool),
    (s.userMode = true → va.msb = true → s.translate va st = .exc (if st then .ades va else .adel va)) ∧
    (s.userMode = false → 0x80000000 ≤ va.toNat → va.toNat < 0xA0000000 →
      s.translate va st = .ok (va - 0x80000000) false) ∧
    (s.userMode = false → 0xA0000000 ≤ va.toNat → va.toNat < 0xC0000000 →
      s.translate va st = .ok (va - 0xA0000000) true) ∧
    (s.cfg.hasMmu = false → va.toNat < 0x80000000 →
      s.translate va st = .ok (va + 0x40000000) s.cfg.baseMappedUncached) ∧
    (s.cfg.hasMmu = false → s.userMode = false → 0xC0000000 ≤ va.toNat →
      s.translate va st = .ok va s.cfg.baseMappedUncached)

/-- Translation through the TLB, with no recent write of it or of EntryHi: no match, one match (invalid, write-protected
or good), more than one (R113-R118). That V is looked at before D, so that a store to an entry with both clear is TLBS, is
the spec's decision D8. -/
def Obligations.TlbTranslation : Prop :=
  ∀ (s : State) (va : Word) (st : Bool), s.cfg.hasMmu = true → NoRecentMtc0 s → s.pipe.tlbLate = [] →
    s.tlbShutDown = false → (va.msb = false ∨ (0xC0000000 ≤ va.toNat ∧ s.userMode = false)) →
    let hit := fun i : Fin 64 => (s.tlb[i]).hi.extractLsb' 12 20 = va.extractLsb' 12 20 ∧
      ((s.tlb[i]).lo.getLsbD 8 = true ∨ (s.tlb[i]).hi.extractLsb' 6 6 = s.cp0.entryHi.extractLsb' 6 6)
    ((∀ i, ¬ hit i) → s.translate va st = .exc (if st then .tlbs va true else .tlbl va true)) ∧
    (∀ i, hit i → (∀ j, hit j → j = i) → let lo := (s.tlb[i]).lo
      s.translate va st =
        if lo.getLsbD 9 = false then .exc (if st then .tlbs va false else .tlbl va false)
        else if st = true ∧ lo.getLsbD 10 = false then .exc (.mod va)
        else .ok (lo.extractLsb' 12 20 ++ va.extractLsb' 0 12) (lo.getLsbD 11)) ∧
    (∀ i j, i ≠ j → hit i → hit j → s.translate va st = .multiple)

/-- A misaligned `pc`, or in user mode one in the upper half, is an address error (R111, R512 (a), (b)). Else a fetch is
translated as a load is when the micro-TLB does not hold its page and no TLB write is in flight; a page the micro-TLB
holds is translated by what it holds (R119). -/
def Obligations.FetchTranslation : Prop :=
  ∀ (s : State) (va : Word),
    ((va.extractLsb' 0 2 ≠ 0 ∨ (s.userMode = true ∧ va.msb = true)) → (s.translateFetch va).1 = .exc (.adel va)) ∧
    (va.extractLsb' 0 2 = 0 → s.pipe.tlbLate = [] → (∀ p ∈ s.utlb, p.vpn ≠ vpnOf va) →
      (s.translateFetch va).1 = s.translate va false) ∧
    (va.extractLsb' 0 2 = 0 → s.cfg.hasMmu = true → s.tlbShutDown = false → va.msb = false →
      ∀ p, s.utlb.find? (fun q => q.vpn == vpnOf va) = some p →
      (s.translateFetch va).1 = .ok (p.pfn ++ va.extractLsb' 0 12) p.noncacheable)

/-! ## Branches and jumps -/

/-- The conditional branches outside a delay slot (R300, R304, R306-R311); the linking ones write the link whether taken
or not, and test `rs` as it was (R303, R312, R313). -/
def Obligations.ConditionalBranch : Prop :=
  ∀ s rs rt (offset : BitVec 16), s.inDelay = false →
    let a := s.src rs; let b := s.src rt
    let there := branchAddress s offset; let on := s.npc + 4
    BranchesTo s (exec (.beq rs rt offset) s) (if a = b then there else on) ∧
    BranchesTo s (exec (.bne rs rt offset) s) (if a = b then on else there) ∧
    BranchesTo s (exec (.blez rs offset) s) (if a.toInt ≤ 0 then there else on) ∧
    BranchesTo s (exec (.bgtz rs offset) s) (if a.msb = false ∧ a ≠ 0 then there else on) ∧
    BranchesTo s (exec (.bltz rs offset) s) (if a.toInt < 0 then there else on) ∧
    BranchesTo s (exec (.bgez rs offset) s) (if a.toInt < 0 then on else there) ∧
    LinksAndBranchesTo s (exec (.bltzal rs offset) s) 31 (if a.toInt < 0 then there else on) ∧
    LinksAndBranchesTo s (exec (.bgezal rs offset) s) 31 (if a.toInt < 0 then on else there)

/-- The jumps (R303, R304, R314-R317); `jalr` with `rs` = `rd` is in the next statement. -/
def Obligations.Jump : Prop :=
  ∀ s rd rs (target : BitVec 26), s.inDelay = false →
    let dest : Word := (s.pc + 4).extractLsb' 28 4 ++ target ++ 0#2
    BranchesTo s (exec (.j target) s) dest ∧ LinksAndBranchesTo s (exec (.jal target) s) 31 dest ∧
    BranchesTo s (exec (.jr rs) s) (s.src rs) ∧
    (rs ≠ rd → LinksAndBranchesTo s (exec (.jalr rd rs) s) rd (s.src rs))

/-- `jalr` with `rs` = `rd`, whose result the spec leaves undefined (R317, U27): in the model it links, runs its slot and
goes to some address (log entry 23). -/
def Obligations.JalrOfItsOwnLink : Prop :=
  ∀ s r, s.inDelay = false → ∃ a, LinksAndBranchesTo s (exec (.jalr r r) s) r a

/-- The coprocessor branches, coprocessor usable (R318, R427): the condition of coprocessor 1 with the FPA is FCR31.C
outside the window of R594; the others' is the pin, on the R3041 while BusCtrl.BR keeps pins 2 and 3 (R63; the place of BR
is log entry 8). -/
def Obligations.CoprocessorBranch : Prop :=
  ∀ s (z : BitVec 2) (offset : BitVec 16), s.inDelay = false → s.usable z = true →
    (z = 1 → s.cfg.hasFpa = true → s.pipe.condWin = 0) →
    (s.cfg.is3041 = true → 2 ≤ z.toNat → NoRecentMtc0 s ∧ s.cp0.busCtrl.getLsbD 13 = true) →
    let c := if z = 1 ∧ s.cfg.hasFpa = true then s.fcr31.getLsbD 23 else s.pins.brCond.getLsbD z.toNat
    let onFalse := if c then s.npc + 4 else branchAddress s offset
    let onTrue := if c then branchAddress s offset else s.npc + 4
    (z = 0 → BranchesTo s (exec (.bc0f offset) s) onFalse ∧ BranchesTo s (exec (.bc0t offset) s) onTrue) ∧
    (z = 1 → BranchesTo s (exec (.bc1f offset) s) onFalse ∧ BranchesTo s (exec (.bc1t offset) s) onTrue) ∧
    (z = 2 → BranchesTo s (exec (.bc2f offset) s) onFalse ∧ BranchesTo s (exec (.bc2t offset) s) onTrue) ∧
    (z = 3 → BranchesTo s (exec (.bc3f offset) s) onFalse ∧ BranchesTo s (exec (.bc3t offset) s) onTrue)

/-! ## Exceptions -/

/-- TAKING AN EXCEPTION, with no recent write of SR (R530-R534): what is saved where, the push, the vector. That an invalid
or modified TLB exception loads EntryHi and Context is the spec's decision D8; that the other exceptions keep them, which U8
leaves open, is log entry 27. -/
def Obligations.ExceptionEntry : Prop :=
  ∀ (s : State) (e : Exc), NoRecentMtc0 s → let t := s.takeException e
    t.cp0.epc = (if s.inDelay then s.pc - 4 else s.pc) ∧
    t.cp0.cause.getLsbD 31 = s.inDelay ∧ t.cp0.cause.extractLsb' 2 5 = e.code ∧
    t.cp0.cause &&& 0x300 = s.cp0.cause &&& 0x300 ∧
    (∀ z, e = .cpu z → t.cp0.cause.extractLsb' 28 2 = z) ∧
    t.cp0.sr = s.cp0.sr.extractLsb' 6 26 ++ s.cp0.sr.extractLsb' 0 4 ++ 0#2 ∧
    (∀ va, e.badVaddr = some va → t.cp0.badVaddr = va) ∧
    (∀ va, e.tlbAddress = some va →
      t.cp0.entryHi = va.extractLsb' 12 20 ++ s.cp0.entryHi.extractLsb' 0 12 ∧
      t.cp0.context = s.cp0.context.extractLsb' 21 11 ++ va.extractLsb' 12 19 ++ s.cp0.context.extractLsb' 0 2) ∧
    (e.tlbAddress = none → t.cp0.entryHi = s.cp0.entryHi ∧ t.cp0.context = s.cp0.context) ∧
    (∀ va, va.msb = false → (e = .tlbl va true ∨ e = .tlbs va true) →
      t.pc = if s.cp0.sr.getLsbD 22 then 0xBFC00100 else 0x80000000) ∧
    ((∀ va, (e = .tlbl va true ∨ e = .tlbs va true) → va.msb = true) →
      t.pc = if s.cp0.sr.getLsbD 22 then 0xBFC00180 else 0x80000080) ∧
    t.npc = t.pc + 4 ∧ t.inDelay = false

/-- What entry leaves alone (R530, R536): every register file, HI, LO, FCR31, the TLB, the caches, memory and the write
buffer, the other CP0 registers; that the micro-TLB is kept too is the model's choice (log entry 19). The handler's first
instruction reads every register as the victim left it, loads pending at the victim included (log entry 50); HI and LO as
they were, or as one or two instructions behind the victim leave them (R505, R256; log entry 24). -/
def Obligations.ExceptionEntryFrame : Prop :=
  ∀ (s : State) (e : Exc), let t := s.takeException e
    SameMemory s t ∧
    t = { s with cp0 := t.cp0, pipe := t.pipe, pc := t.pc, npc := t.npc, inDelay := false } ∧
    t.cp0 = { s.cp0 with
              epc := t.cp0.epc, cause := t.cp0.cause, badVaddr := t.cp0.badVaddr, entryHi := t.cp0.entryHi
              context := t.cp0.context, sr := t.cp0.sr } ∧
    t.pipe.gprLate = none ∧ t.pipe.fprLate = none ∧ t.pipe.fcrLate = none ∧
    t.pipe.gprShadow = none ∧ t.pipe.fprShadow = none ∧
    let h := t.begin
    let behind := t.rotated.behindVictim ⟨s.pc, s.npc, s.inDelay, s.cp0.sr⟩
    (∀ q, h.src q = s.gprAt q) ∧ (∀ q, h.srcFpr q = s.fprAt q) ∧ h.fcrView = s.fcr31 ∧
    ((h.hi = s.hi ∧ h.lo = s.lo) ∨ (h.hi = behind.passed.hi ∧ h.lo = behind.passed.lo) ∨
      (h.hi = behind.passed.rotated.passed.hi ∧ h.lo = behind.passed.rotated.passed.lo))

/-- The instructions whose effect is an exception (R330, R331). -/
def Obligations.TrapInstructionsRaise : Prop :=
  ∀ s code, Raises s (exec (.syscall code) s) .sys ∧ Raises s (exec (.break_ code) s) .bp

/-- `rfe` (R341): `SR[3:0] <- SR[5:2]` and nothing else; directly after a load or store that the mode change would make
ambiguous it stops (log entry 22). It undoes the push of an entry (R531): the current and previous pairs are as before it. -/
def Obligations.ReturnFromException : Prop :=
  (∀ s, s.usable 0 = true → NoRecentMtc0 s →
    ((s.pipe.prev ≠ .memory ∨ s.cp0.sr.getLsbD 1 = s.cp0.sr.getLsbD 3) →
      WritesCp0 s (exec .rfe s) { s.cp0 with sr := s.cp0.sr.extractLsb' 4 28 ++ s.cp0.sr.extractLsb' 2 4 }) ∧
    (s.pipe.prev = .memory → s.cp0.sr.getLsbD 1 ≠ s.cp0.sr.getLsbD 3 → exec .rfe s = .fault .memRefBeforeRfe)) ∧
  ∀ (s : State) e, let t := (s.takeException e).returnFromException
    t.cp0.sr.extractLsb' 0 4 = s.cp0.sr.extractLsb' 0 4 ∧ t.cp0.sr.extractLsb' 6 26 = s.cp0.sr.extractLsb' 6 26

/-! ## Coprocessor 0 -/

/-- `mfc0` with no recent write, register by register (R28, R48, R52-R54, R62-R69, R336); of Random, a draw from 8 to 63 in
bits 13:8 (R68, log entry 13); of Count, the count after some clocks, with bits 31:24 zero by the spec's decision D15 (R53,
log entry 14). A number without a register delivers some value (D11, log entry 28). -/
def Obligations.MoveFromCp0 : Prop :=
  ∀ s rt, s.usable 0 = true → NoRecentMtc0 s → s.cfg.wf = true →
    MovesToGpr s (exec (.mfc0 rt 8) s) rt s.cp0.badVaddr ∧ MovesToGpr s (exec (.mfc0 rt 12) s) rt s.cp0.sr ∧
    MovesToGpr s (exec (.mfc0 rt 13) s) rt (s.cp0.cause ||| s.ipBits) ∧
    MovesToGpr s (exec (.mfc0 rt 14) s) rt s.cp0.epc ∧ MovesToGpr s (exec (.mfc0 rt 15) s) rt s.cfg.prid ∧
    (s.cfg.hasMmu = true → MovesToGpr s (exec (.mfc0 rt 0) s) rt s.cp0.index ∧
      MovesToGpr s (exec (.mfc0 rt 2) s) rt s.cp0.entryLo ∧ MovesToGpr s (exec (.mfc0 rt 4) s) rt s.cp0.context ∧
      MovesToGpr s (exec (.mfc0 rt 10) s) rt s.cp0.entryHi) ∧
    (s.cfg.is3041 = true ∨ s.cfg.hasConfig7181 = true → MovesToGpr s (exec (.mfc0 rt 3) s) rt s.cp0.config) ∧
    (s.cfg.is3041 = true → MovesToGpr s (exec (.mfc0 rt 10) s) rt s.cp0.portSize) ∧
    (s.cfg.hasMmu = true → rt ≠ 0 →
      ∃ t, exec (.mfc0 rt 1) s = .next t ∧ 8 ≤ ((t.gprAt rt).extractLsb' 8 6).toNat ∧
        (t.gprAt rt).extractLsb' 8 6 = t.cp0.random ∧ (∀ q, q ≠ rt → t.gprAt q = s.gprAt q) ∧ SameMemory s t ∧
        t.cp0 = { s.cp0 with random := t.cp0.random }) ∧
    (s.cfg.is3041 = true →
      (∃ d, TimerRuns s.cp0 d ∧ MovesToGprWith s (exec (.mfc0 rt 9) s) rt (0#8 ++ d.count) d) ∧
      (∃ d, TimerRuns s.cp0 d ∧ MovesToGprWith s (exec (.mfc0 rt 11) s) rt (0#8 ++ s.cp0.compare) d) ∧
      ∃ d, TimerRuns s.cp0 d ∧ MovesToGprWith s (exec (.mfc0 rt 2) s) rt s.cp0.busCtrl d) ∧
    ∀ n, NoCp0Register s.cfg n → ∃ v, MovesToGpr s (exec (.mfc0 rt n) s) rt v

/-- `mtc0` (R44, R48, R53-R55, R62-R66, R69, R337): each register takes its writable fields; a locked or read-only register
keeps its value; the fields the spec leaves open are free (log entry 29). The spec's decisions: SR.CM kept and PE cleared by
writing one (D13), PRId and Random ignored and EPC and BadVaddr then anything (D12, D14, log entry 28), a number without a
register ignored (D11), bits 31:24 of Count and Compare (D15). The model's choices: BusCtrl and PortSize keep the written
word whole, BusCtrl's fixed patterns included (log entry 47), PE is cleared by writing one on members without cache parity
too (log entry 40), and the places of BusCtrl.Lock and TC (log entry 8). -/
def Obligations.MoveToCp0 : Prop :=
  ∀ s rt, s.usable 0 = true → NoRecentMtc0 s → s.cfg.wf = true → let v := s.src rt; let c := s.cp0
    (∃ sr, WritesCp0 s (exec (.mtc0 rt 12) s) { c with sr := sr } ∧
      sr &&& 0xF247FF3F = v &&& 0xF247FF3F ∧ sr.getLsbD 21 = c.sr.getLsbD 21 ∧ sr.getLsbD 19 = c.sr.getLsbD 19 ∧
      sr.getLsbD 20 = (c.sr.getLsbD 20 && !v.getLsbD 20) ∧ sr &&& 0x0D8000C0 = 0) ∧
    WritesCp0 s (exec (.mtc0 rt 13) s) { c with cause := (c.cause &&& 0xFFFFFCFF) ||| (v &&& 0x300) } ∧
    WritesCp0 s (exec (.mtc0 rt 15) s) c ∧
    (s.cfg.hasMmu = true →
      WritesCp0 s (exec (.mtc0 rt 2) s) { c with entryLo := v &&& 0xFFFFFF00 } ∧
      WritesCp0 s (exec (.mtc0 rt 4) s)
        { c with context := v.extractLsb' 21 11 ++ c.context.extractLsb' 0 21 } ∧
      WritesCp0AndFlushes s (exec (.mtc0 rt 10) s) { c with entryHi := v &&& 0xFFFFFFC0 } ∧
      (∃ r, 8 ≤ r.toNat ∧ WritesCp0 s (exec (.mtc0 rt 1) s) { c with random := r }) ∧
      ∃ ix, WritesCp0 s (exec (.mtc0 rt 0) s) { c with index := ix } ∧ ix.extractLsb' 8 6 = v.extractLsb' 8 6) ∧
    (∃ w, WritesCp0 s (exec (.mtc0 rt 14) s) { c with epc := w }) ∧
    (∃ w, WritesCp0 s (exec (.mtc0 rt 8) s) { c with badVaddr := w }) ∧
    (∀ n, NoCp0Register s.cfg n → WritesCp0 s (exec (.mtc0 rt n) s) c) ∧
    (s.cfg.hasConfig7181 = true ∨ s.cfg.is3041 = true → c.config.getLsbD 31 = true → WritesCp0 s (exec (.mtc0 rt 3) s) c) ∧
    (s.cfg.hasConfig7181 = true → c.config.getLsbD 31 = false → ∃ w,
      WritesCp0 s (exec (.mtc0 rt 3) s) { c with config := w } ∧ w &&& 0xE3800000 = v &&& 0xE3800000 ∧
      (s.cfg.hasFpa = true → w.extractLsb' 26 3 = v.extractLsb' 26 3)) ∧
    (s.cfg.is3041 = true → WritesCp0 s (exec (.mtc0 rt 10) s) { c with portSize := v } ∧
      (c.config.getLsbD 31 = false →
        WritesCp0 s (exec (.mtc0 rt 3) s) { c with config := (v &&& 0xA0080000) ||| 0x40000000 }) ∧
      (∃ d, TimerRuns c d ∧ WritesCp0 s (exec (.mtc0 rt 9) s) { d with count := v.extractLsb' 0 24 }) ∧
      (∃ d tc, TimerRuns c d ∧ (c.busCtrl.getLsbD 14 = true → tc = false) ∧
        WritesCp0 s (exec (.mtc0 rt 11) s) { d with compare := v.extractLsb' 0 24, tcOut := tc }) ∧
      ∃ d, TimerRuns c d ∧
        WritesCp0 s (exec (.mtc0 rt 2) s) (if c.busCtrl.getLsbD 31 then d else { d with busCtrl := v }))

/-- The coprocessor check comes first: every instruction with the major opcode COPz, LWCz or SWCz raises CpU with CE = z when
z is not usable, whatever its operands and its address (R352, R370, R519), but for the words R339 and R360 make reserved.
With nothing recent, `usable` is what SR says. -/
def Obligations.CoprocessorUnusable : Prop :=
  (∀ i s (z : BitVec 2), s.usable z = false →
    ((opOf (encode i)).toNat = 16 + z.toNat ∨ (z ≠ 0 ∧ (opOf (encode i)).toNat = 48 + z.toNat) ∨
      (z ≠ 0 ∧ (opOf (encode i)).toNat = 56 + z.toNat)) →
    (∀ rt rd, i ≠ .mfc3 rt rd) → (∀ rt offset base, i ≠ .swc3 rt offset base) → Raises s (exec i s) (.cpu z)) ∧
  ∀ s, NoRecentMtc0 s →
    s.usable 0 = (!s.cp0.sr.getLsbD 1 || s.cp0.sr.getLsbD 28) ∧ s.usable 1 = s.cp0.sr.getLsbD 29 ∧
    s.usable 2 = s.cp0.sr.getLsbD 30 ∧ s.usable 3 = s.cp0.sr.getLsbD 31

/-- An instruction that runs where coprocessor 0 is not usable changes neither the TLB nor coprocessor 0 (but for the
two bits hardware sets at an access), or it enters an exception, in kernel mode with interrupts disabled. -/
def Obligations.UserCodeCannotChangeCp0 : Prop :=
  ∀ i s t, s.usable 0 = false → exec i s = .next t → t.tlb = s.tlb ∧
    (SameCp0 t.cp0 s.cp0 ∨
      (t.cp0.sr.getLsbD 1 = false ∧ t.cp0.sr.getLsbD 0 = false ∧ ∃ (s' : State) (e : Exc), SameCp0 s'.cp0 s.cp0 ∧ t = s'.takeException e))

/-! ## The TLB instructions -/

/-- `tlbr`, `tlbwi`, `tlbwr` on a part with the TLB, nothing recent (R344-R346). That `tlbr`, which loads EntryHi, empties the
micro-TLB is the model's reading of R71 and R600 (DEDUCED, log entry 19). On a part without the TLB the machine goes on
(R349, log entry 46). -/
def Obligations.TlbReadAndWrite : Prop :=
  (∀ s, s.usable 0 = true → s.cfg.hasMmu = true → NoRecentMtc0 s →
    let i := s.cp0.index.extractLsb' 8 6
    WritesCp0AndFlushes s (exec .tlbr s) { s.cp0 with
      entryHi := (s.tlb[i.toNat]'i.isLt).hi &&& 0xFFFFFFC0, entryLo := (s.tlb[i.toNat]'i.isLt).lo &&& 0xFFFFFF00 } ∧
    (∃ t, exec .tlbwi s = .next t ∧ t.tlb = s.tlb.set i.toNat ⟨s.cp0.entryHi, s.cp0.entryLo⟩ i.isLt ∧
      t = { s with
            tlb := t.tlb, pc := s.npc, npc := s.npc + 4, inDelay := false
            pipe := { s.pipe with tlbLate := t.pipe.tlbLate } } ∧ SameMemory s t ∧ ∀ q, t.gprAt q = s.gprAt q) ∧
    (∃ t, exec .tlbwr s = .next t ∧ 8 ≤ t.cp0.random.toNat ∧
      t.tlb = s.tlb.set t.cp0.random.toNat ⟨s.cp0.entryHi, s.cp0.entryLo⟩ t.cp0.random.isLt ∧
      t = { s with
            tlb := t.tlb, pc := s.npc, npc := s.npc + 4, inDelay := false
            cp0 := { s.cp0 with random := t.cp0.random }
            pipe := { s.pipe with tlbLate := t.pipe.tlbLate } } ∧ SameMemory s t ∧ ∀ q, t.gprAt q = s.gprAt q)) ∧
  ∀ s, s.usable 0 = true → s.cfg.hasMmu = false → ∀ i ∈ [Instr.tlbr, .tlbwi, .tlbwr, .tlbp],
    ∃ t, exec i s = .next t ∧ t.gpr = s.gpr ∧ t.mem = s.mem ∧ t.cp0.sr = s.cp0.sr ∧ t.pc = s.npc

/-- `tlbp` on a part with the TLB, nothing recent: Index from the one match, bit 31 when there is none, TLB shutdown when
there is more than one (R347, R118; the spec's decision D30, log entry 20). -/
def Obligations.TlbProbe : Prop :=
  ∀ s, s.usable 0 = true → s.cfg.hasMmu = true → NoRecentMtc0 s → s.pipe.tlbLate = [] → s.tlbShutDown = false →
    let hit := fun i : Fin 64 => (s.tlb[i]).hi.extractLsb' 12 20 = s.cp0.entryHi.extractLsb' 12 20 ∧
      ((s.tlb[i]).lo.getLsbD 8 = true ∨ (s.tlb[i]).hi.extractLsb' 6 6 = s.cp0.entryHi.extractLsb' 6 6)
    ∃ t, exec .tlbp s = .next t ∧
      ((∀ i, ¬ hit i) → t.cp0 = { s.cp0 with index := 0x80000000 }) ∧
      (∀ i, hit i → (∀ j, hit j → j = i) → t.cp0 = { s.cp0 with index := BitVec.ofNat 32 (i.val * 256) }) ∧
      (∀ i j, i ≠ j → hit i → hit j →
        t.cp0 = { s.cp0 with index := t.cp0.index, sr := s.cp0.sr ||| 0x00200000 }) ∧
      t = { s with
            cp0 := t.cp0, pc := s.npc, npc := s.npc + 4, inDelay := false
            pipe := { s.pipe with this := .tlbp, late := t.pipe.late } } ∧ SameMemory s t ∧ ∀ q, t.gprAt q = s.gprAt q

/-! ## Coprocessors 2 and 3 -/

/-- With their CU bit set, the absent coprocessors take moves, controls and operations without effect, and deliver some
value (R353-R359; log entry 32). So does coprocessor 1 on a part without the FPA, whatever the operation and its specifiers
(R372; log entry 33). -/
def Obligations.AbsentCoprocessors : Prop :=
  ∀ s rt rd fd fs ft cofun,
    (s.usable 2 = true → ChangesNothing s (exec (.mtc2 rt rd) s) ∧ ChangesNothing s (exec (.ctc2 rt rd) s) ∧
      ChangesNothing s (exec (.cop2 cofun) s) ∧ (∃ v, MovesToGpr s (exec (.mfc2 rt rd) s) rt v) ∧
      ∃ v, MovesToGpr s (exec (.cfc2 rt rd) s) rt v) ∧
    (s.usable 3 = true → ChangesNothing s (exec (.mtc3 rt rd) s) ∧ ChangesNothing s (exec (.ctc3 rt rd) s) ∧
      ChangesNothing s (exec (.cop3 cofun) s) ∧ ∃ v, MovesToGpr s (exec (.cfc3 rt rd) s) rt v) ∧
    (s.usable 1 = true → s.cfg.hasFpa = false →
      (∀ i ∈ [Instr.mtc1 rt fs, .ctc1 rt fs, .addS fd fs ft, .addD fd fs ft, .subS fd fs ft, .subD fd fs ft,
          .mulS fd fs ft, .mulD fd fs ft, .divS fd fs ft, .divD fd fs ft, .absS fd fs, .absD fd fs, .negS fd fs,
          .negD fd fs, .movS fd fs, .movD fd fs, .cvtSD fd fs, .cvtSW fd fs, .cvtDS fd fs, .cvtDW fd fs, .cvtWS fd fs,
          .cvtWD fd fs, .cFS fs ft, .cFD fs ft, .cUnS fs ft, .cUnD fs ft, .cEqS fs ft, .cEqD fs ft, .cUeqS fs ft,
          .cUeqD fs ft, .cOltS fs ft, .cOltD fs ft, .cUltS fs ft, .cUltD fs ft, .cOleS fs ft, .cOleD fs ft,
          .cUleS fs ft, .cUleD fs ft, .cSfS fs ft, .cSfD fs ft, .cNgleS fs ft, .cNgleD fs ft, .cSeqS fs ft,
          .cSeqD fs ft, .cNglS fs ft, .cNglD fs ft, .cLtS fs ft, .cLtD fs ft, .cNgeS fs ft, .cNgeD fs ft, .cLeS fs ft,
          .cLeD fs ft, .cNgtS fs ft, .cNgtD fs ft], ChangesNothing s (exec i s)) ∧
      (∃ v, MovesToGpr s (exec (.mfc1 rt fs) s) rt v) ∧ (∃ v, MovesToGpr s (exec (.cfc1 rt fs) s) rt v) ∧
      ∃ v, v.extractLsb' 8 8 = 0#8 ∧ MovesToGpr s (exec (.cfc1 rt 0) s) rt v)

/-- Loads to them read and discard, `swc2` stores some word (R357, R358); so do `lwc1` and `swc1` on a part without the FPA
(R372; log entry 33). -/
def Obligations.AbsentCoprocessorMemory : Prop :=
  ∀ s rt base (offset : BitVec 16) pa u, let va := s.src base + offset.signExtend 32
    Contents s → MayAccess s → NormalCaches s → va.toNat % 4 = 0 →
    (s.translate va false = .ok pa u → LineIsMemory s pa →
      (s.usable 2 = true → ∃ t, exec (.lwc2 rt offset base) s = .next t ∧ (∀ q, t.gprAt q = s.gprAt q) ∧
        LoadFrame s t 0 ∧ ReadLeaves s t u pa) ∧
      (s.usable 3 = true → ∃ t, exec (.lwc3 rt offset base) s = .next t ∧ (∀ q, t.gprAt q = s.gprAt q) ∧
        LoadFrame s t 0 ∧ ReadLeaves s t u pa) ∧
      (s.usable 1 = true → s.cfg.hasFpa = false → ∃ t, exec (.lwc1 rt offset base) s = .next t ∧
        (∀ q, t.gprAt q = s.gprAt q) ∧ LoadFrame s t 0 ∧ ReadLeaves s t u pa)) ∧
    (s.translate va true = .ok pa u →
      (s.usable 2 = true → ∃ w, StoresLanes s (exec (.swc2 rt offset base) s) pa w 0b1111) ∧
      (s.usable 1 = true → s.cfg.hasFpa = false → ∃ w, StoresLanes s (exec (.swc1 rt offset base) s) pa w 0b1111))

/-! ## The floating-point accelerator -/

/-- Two-operand arithmetic of zeros and normalized numbers, even specifiers, the divisor not zero (R376, R378-R380,
R385-R392): the IEEE 754 result of the exact sum, difference, product or quotient in the rounding mode of FCR31, delivered
with I or with O and I; with one of them enabled it traps; a result that underflows is declined. That the FPA must perform
them is R379 (b), the spec's decision D21 (log entry 34); the details of IEEE 754 are log entry 35, the clearing of UnImp is
D31. -/
def Obligations.FpArithmeticResult : Prop :=
  ∀ s fd fs ft, FpaReady s → fd.getLsbD 0 = false → fs.getLsbD 0 = false → ft.getLsbD 0 = false → ∀ d : Bool,
    ∀ na ma ea nb mb eb,
    (formatOf d).unpack (s.srcFp d fs) = .finite na ma ea → (formatOf d).unpack (s.srcFp d ft) = .finite nb mb eb →
    let a := fpValue na ma ea; let b := fpValue nb mb eb
    let run := fun (single double : Instr) => exec (if d then double else single) s
    let down : Bool := fcrMode s.fcrView == 3
    FpPerforms s (run (.addS fd fs ft) (.addD fd fs ft)) d fd (if a = 0 ∧ b = 0 ∧ na = nb then na else down) (a + b) ∧
    FpPerforms s (run (.subS fd fs ft) (.subD fd fs ft)) d fd (if a = 0 ∧ b = 0 ∧ na ≠ nb then na else down) (a - b) ∧
    FpPerforms s (run (.mulS fd fs ft) (.mulD fd fs ft)) d fd (xor na nb) (a * b) ∧
    (b ≠ 0 → FpPerforms s (run (.divS fd fs ft) (.divD fd fs ft)) d fd (xor na nb) (a / b))

/-- The conversions of zeros, normalized numbers and integers, even specifiers (R401-R406): the IEEE 754 result of the exact
value, and for `cvt.w` the integer it rounds to, declined outside 32 bits. As for the arithmetic, that the FPA must perform
them is R379 (b), the spec's decision D21 (log entries 34, 35). -/
def Obligations.FpConversionResult : Prop :=
  ∀ s fd fs, FpaReady s → fd.getLsbD 0 = false → fs.getLsbD 0 = false →
    (∀ n m e, double.unpack (s.srcDouble fs) = .finite n m e →
      FpPerforms s (exec (.cvtSD fd fs) s) false fd n (fpValue n m e)) ∧
    (∀ n m e, single.unpack (s.srcSingle fs) = .finite n m e → InexactMasked s →
      FpDeliversValue s (exec (.cvtDS fd fs) s) true fd n (fpValue n m e)) ∧
    (InexactMasked s → FpDeliversValue s (exec (.cvtSW fd fs) s) false fd false ((s.srcFpr fs).toInt : ℚ) ∧
      FpDeliversValue s (exec (.cvtDW fd fs) s) true fd false ((s.srcFpr fs).toInt : ℚ)) ∧
    ∀ d : Bool, ∀ n m e, (formatOf d).unpack (s.srcFp d fs) = .finite n m e →
      ∀ q : ℤ, RoundsTo (fcrMode s.fcrView) (fpValue n m e) q →
      let r := exec (if d then .cvtWD fd fs else .cvtWS fd fs) s
      (-(2 ^ 31) ≤ q → q < 2 ^ 31 → InexactMasked s →
        FpDelivers s r false fd ((BitVec.ofInt 32 q).setWidth 64) (if (q : ℚ) = fpValue n m e then 0 else excI)) ∧
      (q < -(2 ^ 31) ∨ 2 ^ 31 ≤ q → FpDeclines s r)

/-- `abs` and `neg` of zeros and normalized numbers, `mov` of any bits (R393-R398). That the FPA must perform them rests on
R379 (b), the spec's decision D21 (log entry 34), that `mov` leaves FCR31 alone on D32, that UnImp is cleared on D31. -/
def Obligations.FpSignAndMove : Prop :=
  ∀ s fd fs, FpaReady s → fd.getLsbD 0 = false → fs.getLsbD 0 = false →
    let a := s.srcSingle fs; let d := s.srcDouble fs
    (∀ n m e, single.unpack a = .finite n m e →
      FpDelivers s (exec (.absS fd fs) s) false fd (a &&& 0x7FFFFFFF) 0 ∧
      FpDelivers s (exec (.negS fd fs) s) false fd (a ^^^ 0x80000000) 0) ∧
    (∀ n m e, double.unpack d = .finite n m e →
      FpDelivers s (exec (.absD fd fs) s) true fd (d &&& 0x7FFFFFFFFFFFFFFF) 0 ∧
      FpDelivers s (exec (.negD fd fs) s) true fd (d ^^^ 0x8000000000000000) 0) ∧
    (∃ t, exec (.movS fd fs) s = .next t ∧ FprAfter s t false fd a ∧ SameMemory s t ∧ (∀ q, t.gprAt q = s.gprAt q) ∧
      t = { s with fpr := t.fpr, pc := s.npc, npc := s.npc + 4, inDelay := false }) ∧
    (∃ t, exec (.movD fd fs) s = .next t ∧ FprAfter s t true fd d ∧ SameMemory s t ∧ (∀ q, t.gprAt q = s.gprAt q) ∧
      t = { s with fpr := t.fpr, pc := s.npc, npc := s.npc + 4, inDelay := false })

/-- The compares of numbers, even specifiers (R410-R426): condition 4 to 7 and 12 to 15 ask for less, 2, 3, 6, 7, 10, 11,
14, 15 for equal; an order on the exact values. That they must be performed rests on R379 (b), the spec's decision D21 (log
entry 34), and that UnImp is cleared on D31. -/
def Obligations.FpCompareResult : Prop :=
  ∀ s fs ft, FpaReady s → fs.getLsbD 0 = false → ft.getLsbD 0 = false → ∀ isDouble : Bool,
    ∀ na ma ea nb mb eb,
    (formatOf isDouble).unpack (s.srcFp isDouble fs) = .finite na ma ea →
    (formatOf isDouble).unpack (s.srcFp isDouble ft) = .finite nb mb eb →
    let a : ℚ := (if na then -1 else 1) * ma * (2 : ℚ) ^ ea
    let b : ℚ := (if nb then -1 else 1) * mb * (2 : ℚ) ^ eb
    let run := fun (single double : Instr) => exec (if isDouble then double else single) s
    FpCompares s (run (.cFS fs ft) (.cFD fs ft)) false ∧ FpCompares s (run (.cUnS fs ft) (.cUnD fs ft)) false ∧
    FpCompares s (run (.cEqS fs ft) (.cEqD fs ft)) (decide (a = b)) ∧
    FpCompares s (run (.cUeqS fs ft) (.cUeqD fs ft)) (decide (a = b)) ∧
    FpCompares s (run (.cOltS fs ft) (.cOltD fs ft)) (decide (a < b)) ∧
    FpCompares s (run (.cUltS fs ft) (.cUltD fs ft)) (decide (a < b)) ∧
    FpCompares s (run (.cOleS fs ft) (.cOleD fs ft)) (decide (a ≤ b)) ∧
    FpCompares s (run (.cUleS fs ft) (.cUleD fs ft)) (decide (a ≤ b)) ∧
    FpCompares s (run (.cSfS fs ft) (.cSfD fs ft)) false ∧ FpCompares s (run (.cNgleS fs ft) (.cNgleD fs ft)) false ∧
    FpCompares s (run (.cSeqS fs ft) (.cSeqD fs ft)) (decide (a = b)) ∧
    FpCompares s (run (.cNglS fs ft) (.cNglD fs ft)) (decide (a = b)) ∧
    FpCompares s (run (.cLtS fs ft) (.cLtD fs ft)) (decide (a < b)) ∧
    FpCompares s (run (.cNgeS fs ft) (.cNgeD fs ft)) (decide (a < b)) ∧
    FpCompares s (run (.cLeS fs ft) (.cLeD fs ft)) (decide (a ≤ b)) ∧
    FpCompares s (run (.cNgtS fs ft) (.cNgtD fs ft)) (decide (a ≤ b))

/-- Rounding an integer with dropped bits follows FCR31.RM (R76): nearest with ties to even, towards zero, up, down. -/
def Obligations.RoundingModes : Prop :=
  ∀ (neg : Bool) (m k : Nat),
    let q := fun rm => roundShift rm neg m k false
    (2 * (q 0 * 2 ^ k) ≤ 2 * m + 2 ^ k ∧ 2 * m ≤ 2 * (q 0 * 2 ^ k) + 2 ^ k ∧
      ((2 * (q 0 * 2 ^ k) = 2 * m + 2 ^ k ∨ 2 * m = 2 * (q 0 * 2 ^ k) + 2 ^ k) → q 0 % 2 = 0)) ∧
    (q 1 * 2 ^ k ≤ m ∧ m < (q 1 + 1) * 2 ^ k) ∧
    (neg = false → m ≤ q 2 * 2 ^ k ∧ q 2 * 2 ^ k < m + 2 ^ k ∧ q 3 = q 1) ∧
    (neg = true → m ≤ q 3 * 2 ^ k ∧ q 3 * 2 ^ k < m + 2 ^ k ∧ q 2 = q 1)

/-- A result the FPA delivers without an exception is the exact value (R77, R378). -/
def Obligations.FpResultWithoutInexactIsExact : Prop :=
  ∀ f ∈ [single, double], ∀ rm tiny neg (m : Nat) (e : Int) r, 0 < m →
    f.round rm tiny neg m e false = .must r excNone →
    ∃ q x, f.unpack r = .finite neg q x ∧ (q : ℚ) * (2 : ℚ) ^ x = (m : ℚ) * (2 : ℚ) ^ e

/-- The FPA declines (R379 (a), R381; the spec's decision D21, log entry 34) a denormalized or NaN operand with invalid
operations not enabled, for either operand of the arithmetic and of the compares; the invalid operations of infinities and
zeros; the conversion of an infinity to an integer; and a COP1 operation that does not exist. The destination keeps its value
and UnImp is set; the interrupt is taken at the instruction when it is enabled, else the machine goes on (R380, R432, log
entry 36). -/
def Obligations.FpDeclinedOperation : Prop :=
  ∀ s, FpaReady s →
    (∀ fd fs ft, fd.getLsbD 0 = false → fs.getLsbD 0 = false → ft.getLsbD 0 = false → s.fpInvalidEnabled = false →
      ∀ d : Bool, let a := (formatOf d).unpack (s.srcFp d fs); let b := (formatOf d).unpack (s.srcFp d ft)
      let refused := fun x : Fp => x = .denormal ∨ x = .quietNan ∨ x = .signallingNan
      let zero := fun x : Fp => ∃ n e, x = .finite n 0 e
      let infinite := fun x : Fp => ∃ n, x = .inf n
      let declines := fun (single double : Instr) => FpDeclines s (exec (if d then double else single) s)
      let settling : State := { s with pipe := { s.pipe with condWin := 2 } }
      (refused a ∨ refused b →
        declines (.addS fd fs ft) (.addD fd fs ft) ∧ declines (.subS fd fs ft) (.subD fd fs ft) ∧
        declines (.mulS fd fs ft) (.mulD fd fs ft) ∧ declines (.divS fd fs ft) (.divD fd fs ft) ∧
        ∀ i ∈ (if d then
            [Instr.cFD fs ft, .cUnD fs ft, .cEqD fs ft, .cUeqD fs ft, .cOltD fs ft, .cUltD fs ft, .cOleD fs ft,
              .cUleD fs ft, .cSfD fs ft, .cNgleD fs ft, .cSeqD fs ft, .cNglD fs ft, .cLtD fs ft, .cNgeD fs ft,
              .cLeD fs ft, .cNgtD fs ft]
          else
            [Instr.cFS fs ft, .cUnS fs ft, .cEqS fs ft, .cUeqS fs ft, .cOltS fs ft, .cUltS fs ft, .cOleS fs ft,
              .cUleS fs ft, .cSfS fs ft, .cNgleS fs ft, .cSeqS fs ft, .cNglS fs ft, .cLtS fs ft, .cNgeS fs ft,
              .cLeS fs ft, .cNgtS fs ft]), FpDeclines settling (exec i s)) ∧
      (refused a → declines (.absS fd fs) (.absD fd fs) ∧ declines (.negS fd fs) (.negD fd fs) ∧
        declines (.cvtDS fd fs) (.cvtSD fd fs)) ∧
      (refused a ∨ infinite a → declines (.cvtWS fd fs) (.cvtWD fd fs)) ∧
      (∀ n, a = .inf n → b = .inf (!n) → declines (.addS fd fs ft) (.addD fd fs ft)) ∧
      (∀ n, a = .inf n → b = .inf n → declines (.subS fd fs ft) (.subD fd fs ft)) ∧
      ((infinite a ∧ zero b) ∨ (zero a ∧ infinite b) → declines (.mulS fd fs ft) (.mulD fd fs ft)) ∧
      ((infinite a ∧ infinite b) ∨ (zero a ∧ zero b) → declines (.divS fd fs ft) (.divD fd fs ft))) ∧
    ∀ w fmt funct, decodeWord w = .error (.unimplementedFpOperation fmt funct) → FpDeclines s (runWord w s)

/-- The FP moves and control registers (R428-R431): FCR31 keeps its defined fields, FCR0 is read-only. -/
def Obligations.FpRegisterMoves : Prop :=
  ∀ s rt fs, FpaReady s →
    MovesToGpr s (exec (.mfc1 rt fs) s) rt (s.srcFpr fs) ∧
    MovesToGpr s (exec (.cfc1 rt 0) s) rt s.cfg.fcr0 ∧
    (s.pipe.fcrShadow = none → MovesToGpr s (exec (.cfc1 rt 31) s) rt s.fcr31) ∧
    ChangesNothing s (exec (.ctc1 rt 0) s) ∧
    (∃ t, exec (.mtc1 rt fs) s = .next t ∧ t.fprAt fs = s.src rt ∧ (∀ q, q ≠ fs → t.fprAt q = s.fprAt q) ∧
      SameMemory s t ∧ (∀ q, t.gprAt q = s.gprAt q) ∧
      t = { s with
            fpr := t.fpr, pc := s.npc, npc := s.npc + 4, inDelay := false
            pipe := { s.pipe with fprLate := some ⟨fs, s.fprAt fs⟩ } }) ∧
    (∃ t, exec (.ctc1 rt 31) s = .next t ∧ t.fcr31 = s.src rt &&& 0x0083FFFF ∧ SameMemory s t ∧
      (∀ q, t.gprAt q = s.gprAt q) ∧
      t = { s with
            fcr31 := t.fcr31, pc := s.npc, npc := s.npc + 4, inDelay := false
            pipe := { s.pipe with fcrLate := some s.fcr31, condWin := 3 } })

/-- `lwc1` (R433), and what its read does to the D-cache and the write buffer (R127, R129, R132, R139). -/
def Obligations.FpLoadResult : Prop :=
  ∀ s ft base (offset : BitVec 16) pa u, let va := s.src base + offset.signExtend 32
    FpaReady s → MayAccess s → NormalCaches s → va.toNat % 4 = 0 → s.translate va false = .ok pa u →
    LineIsMemory s pa →
    ∃ t, exec (.lwc1 ft offset base) s = .next t ∧ t.fprAt ft = s.deliveredWord u pa ∧
      (∀ q, q ≠ ft → t.fprAt q = s.fprAt q) ∧ SameMemory s t ∧ (∀ q, t.gprAt q = s.gprAt q) ∧ ReadLeaves s t u pa ∧
      t = { s with
            fpr := t.fpr, mem := t.mem, wbuf := t.wbuf, dcache := t.dcache
            pc := s.npc, npc := s.npc + 4, inDelay := false
            pipe := { s.pipe with this := .memory, fprLate := some ⟨ft, s.fprAt ft⟩ } }
end

