-- ==== Sys2Proof/Laws/Sparse.lean ====
section
/-! SUPPORT. What reading and writing sparse contents do. -/

namespace Sys2Proof.Laws

open Sys2Proof.Machine

variable {α : Type} [DecidableEq α] {d : α}

theorem sparseWf_cons {k : Nat} {v : α} {m : List (Nat × α)} :
    sparseWf d ((k, v) :: m) = true ↔ v ≠ d ∧ (∀ p ∈ m, k < p.1) ∧ sparseWf d m = true := by
  simp [sparseWf, and_assoc]

omit [DecidableEq α] in
/-- An address below every listed one holds the default. -/
theorem sparseGet_of_below {m : List (Nat × α)} {a : Nat} (h : ∀ p ∈ m, a < p.1) : sparseGet d m a = d := by
  induction m with
  | nil => rfl
  | cons p m ih =>
    have hp : a < p.1 := h p (by simp)
    simp only [sparseGet, if_neg (Nat.ne_of_lt hp)]
    exact ih fun q hq => h q (by simp [hq])

theorem mem_sparseSet {m : List (Nat × α)} {a : Nat} {v : α} {p : Nat × α} (h : p ∈ sparseSet d m a v) :
    p ∈ m ∨ p.1 = a := by
  induction m with
  | nil =>
    simp only [sparseSet] at h
    split at h <;> simp_all
  | cons q m ih =>
    obtain ⟨k, w⟩ := q
    simp only [sparseSet] at h
    split at h
    · split at h
      · exact .inl h
      · rcases List.mem_cons.mp h with rfl | h
        · exact .inr rfl
        · exact .inl h
    · split at h
      · rename_i _ hk
        split at h
        · exact .inl (by simp [h])
        · rcases List.mem_cons.mp h with rfl | h
          · exact .inr hk.symm
          · exact .inl (by simp [h])
      · rcases List.mem_cons.mp h with rfl | h
        · exact .inl (by simp)
        · rcases ih h with h | h
          · exact .inl (by simp [h])
          · exact .inr h

/-- A write keeps the canonical form. -/
theorem sparseSet_wf {m : List (Nat × α)} (h : sparseWf d m = true) (a : Nat) (v : α) :
    sparseWf d (sparseSet d m a v) = true := by
  induction m with
  | nil =>
    simp only [sparseSet]
    split
    · rfl
    · exact sparseWf_cons.mpr ⟨by assumption, by simp, rfl⟩
  | cons q m ih =>
    obtain ⟨k, w⟩ := q
    obtain ⟨hw, hm, hr⟩ := sparseWf_cons.mp h
    simp only [sparseSet]
    split
    · rename_i hlt
      split
      · exact h
      · refine sparseWf_cons.mpr ⟨by assumption, ?_, h⟩
        intro p hp
        rcases List.mem_cons.mp hp with rfl | hp
        · exact hlt
        · exact Nat.lt_trans hlt (hm p hp)
    · rename_i hge
      split
      · split
        · exact hr
        · exact sparseWf_cons.mpr ⟨by assumption, hm, hr⟩
      · rename_i hne
        refine sparseWf_cons.mpr ⟨hw, ?_, ih hr⟩
        intro p hp
        rcases mem_sparseSet hp with hp | hp
        · exact hm p hp
        · omega

/-- Read after write: the written address holds the value written, every other one is as before. -/
theorem sparseGet_sparseSet {m : List (Nat × α)} (h : sparseWf d m = true) (a : Nat) (v : α) (b : Nat) :
    sparseGet d (sparseSet d m a v) b = if b = a then v else sparseGet d m b := by
  induction m with
  | nil =>
    simp only [sparseSet]
    split
    · subst_vars; simp [sparseGet]
    · simp [sparseGet]
  | cons q m ih =>
    obtain ⟨k, w⟩ := q
    obtain ⟨hw, hm, hr⟩ := sparseWf_cons.mp h
    have below : ∀ c, c ≤ k → sparseGet d m c = d :=
      fun c hc => sparseGet_of_below fun p hp => Nat.lt_of_le_of_lt hc (hm p hp)
    simp only [sparseSet]
    split
    · rename_i hlt
      split
      · rename_i hv
        by_cases hb : b = a
        · subst hb
          simp [sparseGet, Nat.ne_of_lt hlt, below b (Nat.le_of_lt hlt), hv]
        · simp [hb]
      · simp [sparseGet]
    · split
      · rename_i _ hk
        subst hk
        split
        · rename_i hv
          by_cases hb : b = a
          · simp [hb, below a (Nat.le_refl a), hv]
          · simp [sparseGet, hb]
        · by_cases hb : b = a <;> simp [sparseGet, hb]
      · rename_i _ hk
        simp only [sparseGet]
        by_cases hb : b = k
        · subst hb; simp [Ne.symm hk]
        · simp [hb, ih hr]

end Sys2Proof.Laws
end

