-- ==== Sys2Proof/Laws/State.lean ====
section
/-! SUPPORT. One lemma for each field an update of State leaves alone. -/

namespace Sys2Proof.Laws

open Sys2Proof.Machine

variable (s : State)

@[simp] theorem setGpr_cfg (r : Reg) (v : Word): (s.setGpr r v).cfg = s.cfg := by unfold State.setGpr; split <;> rfl
@[simp] theorem setGpr_hi (r : Reg) (v : Word): (s.setGpr r v).hi = s.hi := by unfold State.setGpr; split <;> rfl
@[simp] theorem setGpr_lo (r : Reg) (v : Word): (s.setGpr r v).lo = s.lo := by unfold State.setGpr; split <;> rfl
@[simp] theorem setGpr_pc (r : Reg) (v : Word): (s.setGpr r v).pc = s.pc := by unfold State.setGpr; split <;> rfl
@[simp] theorem setGpr_npc (r : Reg) (v : Word): (s.setGpr r v).npc = s.npc := by unfold State.setGpr; split <;> rfl
@[simp] theorem setGpr_inDelay (r : Reg) (v : Word): (s.setGpr r v).inDelay = s.inDelay := by unfold State.setGpr; split <;> rfl
@[simp] theorem setGpr_cp0 (r : Reg) (v : Word): (s.setGpr r v).cp0 = s.cp0 := by unfold State.setGpr; split <;> rfl
@[simp] theorem setGpr_tlb (r : Reg) (v : Word): (s.setGpr r v).tlb = s.tlb := by unfold State.setGpr; split <;> rfl
@[simp] theorem setGpr_utlb (r : Reg) (v : Word): (s.setGpr r v).utlb = s.utlb := by unfold State.setGpr; split <;> rfl
@[simp] theorem setGpr_fpr (r : Reg) (v : Word): (s.setGpr r v).fpr = s.fpr := by unfold State.setGpr; split <;> rfl
@[simp] theorem setGpr_fcr31 (r : Reg) (v : Word): (s.setGpr r v).fcr31 = s.fcr31 := by unfold State.setGpr; split <;> rfl
@[simp] theorem setGpr_mem (r : Reg) (v : Word): (s.setGpr r v).mem = s.mem := by unfold State.setGpr; split <;> rfl
@[simp] theorem setGpr_wbuf (r : Reg) (v : Word): (s.setGpr r v).wbuf = s.wbuf := by unfold State.setGpr; split <;> rfl
@[simp] theorem setGpr_dcache (r : Reg) (v : Word): (s.setGpr r v).dcache = s.dcache := by unfold State.setGpr; split <;> rfl
@[simp] theorem setGpr_icache (r : Reg) (v : Word): (s.setGpr r v).icache = s.icache := by unfold State.setGpr; split <;> rfl
@[simp] theorem setGpr_pins (r : Reg) (v : Word): (s.setGpr r v).pins = s.pins := by unfold State.setGpr; split <;> rfl
@[simp] theorem setGpr_pipe (r : Reg) (v : Word): (s.setGpr r v).pipe = s.pipe := by unfold State.setGpr; split <;> rfl
@[simp] theorem setGpr_events (r : Reg) (v : Word): (s.setGpr r v).events = s.events := by unfold State.setGpr; split <;> rfl
@[simp] theorem setGpr_draws (r : Reg) (v : Word): (s.setGpr r v).draws = s.draws := by unfold State.setGpr; split <;> rfl

@[simp] theorem setGprLate_cfg (r : Reg) (v : Word) (l : Bool): (s.setGprLate r v l).cfg = s.cfg := by unfold State.setGprLate; split <;> simp
@[simp] theorem setGprLate_hi (r : Reg) (v : Word) (l : Bool): (s.setGprLate r v l).hi = s.hi := by unfold State.setGprLate; split <;> simp
@[simp] theorem setGprLate_lo (r : Reg) (v : Word) (l : Bool): (s.setGprLate r v l).lo = s.lo := by unfold State.setGprLate; split <;> simp
@[simp] theorem setGprLate_pc (r : Reg) (v : Word) (l : Bool): (s.setGprLate r v l).pc = s.pc := by unfold State.setGprLate; split <;> simp
@[simp] theorem setGprLate_npc (r : Reg) (v : Word) (l : Bool): (s.setGprLate r v l).npc = s.npc := by unfold State.setGprLate; split <;> simp
@[simp] theorem setGprLate_inDelay (r : Reg) (v : Word) (l : Bool): (s.setGprLate r v l).inDelay = s.inDelay := by unfold State.setGprLate; split <;> simp
@[simp] theorem setGprLate_cp0 (r : Reg) (v : Word) (l : Bool): (s.setGprLate r v l).cp0 = s.cp0 := by unfold State.setGprLate; split <;> simp
@[simp] theorem setGprLate_tlb (r : Reg) (v : Word) (l : Bool): (s.setGprLate r v l).tlb = s.tlb := by unfold State.setGprLate; split <;> simp
@[simp] theorem setGprLate_utlb (r : Reg) (v : Word) (l : Bool): (s.setGprLate r v l).utlb = s.utlb := by unfold State.setGprLate; split <;> simp
@[simp] theorem setGprLate_fpr (r : Reg) (v : Word) (l : Bool): (s.setGprLate r v l).fpr = s.fpr := by unfold State.setGprLate; split <;> simp
@[simp] theorem setGprLate_fcr31 (r : Reg) (v : Word) (l : Bool): (s.setGprLate r v l).fcr31 = s.fcr31 := by unfold State.setGprLate; split <;> simp
@[simp] theorem setGprLate_mem (r : Reg) (v : Word) (l : Bool): (s.setGprLate r v l).mem = s.mem := by unfold State.setGprLate; split <;> simp
@[simp] theorem setGprLate_wbuf (r : Reg) (v : Word) (l : Bool): (s.setGprLate r v l).wbuf = s.wbuf := by unfold State.setGprLate; split <;> simp
@[simp] theorem setGprLate_dcache (r : Reg) (v : Word) (l : Bool): (s.setGprLate r v l).dcache = s.dcache := by unfold State.setGprLate; split <;> simp
@[simp] theorem setGprLate_icache (r : Reg) (v : Word) (l : Bool): (s.setGprLate r v l).icache = s.icache := by unfold State.setGprLate; split <;> simp
@[simp] theorem setGprLate_pins (r : Reg) (v : Word) (l : Bool): (s.setGprLate r v l).pins = s.pins := by unfold State.setGprLate; split <;> simp
@[simp] theorem setGprLate_events (r : Reg) (v : Word) (l : Bool): (s.setGprLate r v l).events = s.events := by unfold State.setGprLate; split <;> simp
@[simp] theorem setGprLate_draws (r : Reg) (v : Word) (l : Bool): (s.setGprLate r v l).draws = s.draws := by unfold State.setGprLate; split <;> simp

@[simp] theorem setFpr_cfg (r : Reg) (v : Word): (s.setFpr r v).cfg = s.cfg := rfl
@[simp] theorem setFpr_gpr (r : Reg) (v : Word): (s.setFpr r v).gpr = s.gpr := rfl
@[simp] theorem setFpr_hi (r : Reg) (v : Word): (s.setFpr r v).hi = s.hi := rfl
@[simp] theorem setFpr_lo (r : Reg) (v : Word): (s.setFpr r v).lo = s.lo := rfl
@[simp] theorem setFpr_pc (r : Reg) (v : Word): (s.setFpr r v).pc = s.pc := rfl
@[simp] theorem setFpr_npc (r : Reg) (v : Word): (s.setFpr r v).npc = s.npc := rfl
@[simp] theorem setFpr_inDelay (r : Reg) (v : Word): (s.setFpr r v).inDelay = s.inDelay := rfl
@[simp] theorem setFpr_cp0 (r : Reg) (v : Word): (s.setFpr r v).cp0 = s.cp0 := rfl
@[simp] theorem setFpr_tlb (r : Reg) (v : Word): (s.setFpr r v).tlb = s.tlb := rfl
@[simp] theorem setFpr_utlb (r : Reg) (v : Word): (s.setFpr r v).utlb = s.utlb := rfl
@[simp] theorem setFpr_fcr31 (r : Reg) (v : Word): (s.setFpr r v).fcr31 = s.fcr31 := rfl
@[simp] theorem setFpr_mem (r : Reg) (v : Word): (s.setFpr r v).mem = s.mem := rfl
@[simp] theorem setFpr_wbuf (r : Reg) (v : Word): (s.setFpr r v).wbuf = s.wbuf := rfl
@[simp] theorem setFpr_dcache (r : Reg) (v : Word): (s.setFpr r v).dcache = s.dcache := rfl
@[simp] theorem setFpr_icache (r : Reg) (v : Word): (s.setFpr r v).icache = s.icache := rfl
@[simp] theorem setFpr_pins (r : Reg) (v : Word): (s.setFpr r v).pins = s.pins := rfl
@[simp] theorem setFpr_pipe (r : Reg) (v : Word): (s.setFpr r v).pipe = s.pipe := rfl
@[simp] theorem setFpr_events (r : Reg) (v : Word): (s.setFpr r v).events = s.events := rfl
@[simp] theorem setFpr_draws (r : Reg) (v : Word): (s.setFpr r v).draws = s.draws := rfl

@[simp] theorem setFprLate_cfg (r : Reg) (v : Word): (s.setFprLate r v).cfg = s.cfg := rfl
@[simp] theorem setFprLate_gpr (r : Reg) (v : Word): (s.setFprLate r v).gpr = s.gpr := rfl
@[simp] theorem setFprLate_hi (r : Reg) (v : Word): (s.setFprLate r v).hi = s.hi := rfl
@[simp] theorem setFprLate_lo (r : Reg) (v : Word): (s.setFprLate r v).lo = s.lo := rfl
@[simp] theorem setFprLate_pc (r : Reg) (v : Word): (s.setFprLate r v).pc = s.pc := rfl
@[simp] theorem setFprLate_npc (r : Reg) (v : Word): (s.setFprLate r v).npc = s.npc := rfl
@[simp] theorem setFprLate_inDelay (r : Reg) (v : Word): (s.setFprLate r v).inDelay = s.inDelay := rfl
@[simp] theorem setFprLate_cp0 (r : Reg) (v : Word): (s.setFprLate r v).cp0 = s.cp0 := rfl
@[simp] theorem setFprLate_tlb (r : Reg) (v : Word): (s.setFprLate r v).tlb = s.tlb := rfl
@[simp] theorem setFprLate_utlb (r : Reg) (v : Word): (s.setFprLate r v).utlb = s.utlb := rfl
@[simp] theorem setFprLate_fcr31 (r : Reg) (v : Word): (s.setFprLate r v).fcr31 = s.fcr31 := rfl
@[simp] theorem setFprLate_mem (r : Reg) (v : Word): (s.setFprLate r v).mem = s.mem := rfl
@[simp] theorem setFprLate_wbuf (r : Reg) (v : Word): (s.setFprLate r v).wbuf = s.wbuf := rfl
@[simp] theorem setFprLate_dcache (r : Reg) (v : Word): (s.setFprLate r v).dcache = s.dcache := rfl
@[simp] theorem setFprLate_icache (r : Reg) (v : Word): (s.setFprLate r v).icache = s.icache := rfl
@[simp] theorem setFprLate_pins (r : Reg) (v : Word): (s.setFprLate r v).pins = s.pins := rfl
@[simp] theorem setFprLate_events (r : Reg) (v : Word): (s.setFprLate r v).events = s.events := rfl
@[simp] theorem setFprLate_draws (r : Reg) (v : Word): (s.setFprLate r v).draws = s.draws := rfl

@[simp] theorem storeDouble_cfg (r : Reg) (v : BitVec 64): (s.storeDouble r v).cfg = s.cfg := rfl
@[simp] theorem storeDouble_gpr (r : Reg) (v : BitVec 64): (s.storeDouble r v).gpr = s.gpr := rfl
@[simp] theorem storeDouble_hi (r : Reg) (v : BitVec 64): (s.storeDouble r v).hi = s.hi := rfl
@[simp] theorem storeDouble_lo (r : Reg) (v : BitVec 64): (s.storeDouble r v).lo = s.lo := rfl
@[simp] theorem storeDouble_pc (r : Reg) (v : BitVec 64): (s.storeDouble r v).pc = s.pc := rfl
@[simp] theorem storeDouble_npc (r : Reg) (v : BitVec 64): (s.storeDouble r v).npc = s.npc := rfl
@[simp] theorem storeDouble_inDelay (r : Reg) (v : BitVec 64): (s.storeDouble r v).inDelay = s.inDelay := rfl
@[simp] theorem storeDouble_cp0 (r : Reg) (v : BitVec 64): (s.storeDouble r v).cp0 = s.cp0 := rfl
@[simp] theorem storeDouble_tlb (r : Reg) (v : BitVec 64): (s.storeDouble r v).tlb = s.tlb := rfl
@[simp] theorem storeDouble_utlb (r : Reg) (v : BitVec 64): (s.storeDouble r v).utlb = s.utlb := rfl
@[simp] theorem storeDouble_fcr31 (r : Reg) (v : BitVec 64): (s.storeDouble r v).fcr31 = s.fcr31 := rfl
@[simp] theorem storeDouble_mem (r : Reg) (v : BitVec 64): (s.storeDouble r v).mem = s.mem := rfl
@[simp] theorem storeDouble_wbuf (r : Reg) (v : BitVec 64): (s.storeDouble r v).wbuf = s.wbuf := rfl
@[simp] theorem storeDouble_dcache (r : Reg) (v : BitVec 64): (s.storeDouble r v).dcache = s.dcache := rfl
@[simp] theorem storeDouble_icache (r : Reg) (v : BitVec 64): (s.storeDouble r v).icache = s.icache := rfl
@[simp] theorem storeDouble_pins (r : Reg) (v : BitVec 64): (s.storeDouble r v).pins = s.pins := rfl
@[simp] theorem storeDouble_pipe (r : Reg) (v : BitVec 64): (s.storeDouble r v).pipe = s.pipe := rfl
@[simp] theorem storeDouble_events (r : Reg) (v : BitVec 64): (s.storeDouble r v).events = s.events := rfl
@[simp] theorem storeDouble_draws (r : Reg) (v : BitVec 64): (s.storeDouble r v).draws = s.draws := rfl

@[simp] theorem storeSingle_cfg (r : Reg) (v : BitVec 64): (s.storeSingle r v).cfg = s.cfg := rfl
@[simp] theorem storeSingle_gpr (r : Reg) (v : BitVec 64): (s.storeSingle r v).gpr = s.gpr := rfl
@[simp] theorem storeSingle_hi (r : Reg) (v : BitVec 64): (s.storeSingle r v).hi = s.hi := rfl
@[simp] theorem storeSingle_lo (r : Reg) (v : BitVec 64): (s.storeSingle r v).lo = s.lo := rfl
@[simp] theorem storeSingle_pc (r : Reg) (v : BitVec 64): (s.storeSingle r v).pc = s.pc := rfl
@[simp] theorem storeSingle_npc (r : Reg) (v : BitVec 64): (s.storeSingle r v).npc = s.npc := rfl
@[simp] theorem storeSingle_inDelay (r : Reg) (v : BitVec 64): (s.storeSingle r v).inDelay = s.inDelay := rfl
@[simp] theorem storeSingle_cp0 (r : Reg) (v : BitVec 64): (s.storeSingle r v).cp0 = s.cp0 := rfl
@[simp] theorem storeSingle_tlb (r : Reg) (v : BitVec 64): (s.storeSingle r v).tlb = s.tlb := rfl
@[simp] theorem storeSingle_utlb (r : Reg) (v : BitVec 64): (s.storeSingle r v).utlb = s.utlb := rfl
@[simp] theorem storeSingle_fcr31 (r : Reg) (v : BitVec 64): (s.storeSingle r v).fcr31 = s.fcr31 := rfl
@[simp] theorem storeSingle_mem (r : Reg) (v : BitVec 64): (s.storeSingle r v).mem = s.mem := rfl
@[simp] theorem storeSingle_wbuf (r : Reg) (v : BitVec 64): (s.storeSingle r v).wbuf = s.wbuf := rfl
@[simp] theorem storeSingle_dcache (r : Reg) (v : BitVec 64): (s.storeSingle r v).dcache = s.dcache := rfl
@[simp] theorem storeSingle_icache (r : Reg) (v : BitVec 64): (s.storeSingle r v).icache = s.icache := rfl
@[simp] theorem storeSingle_pins (r : Reg) (v : BitVec 64): (s.storeSingle r v).pins = s.pins := rfl
@[simp] theorem storeSingle_pipe (r : Reg) (v : BitVec 64): (s.storeSingle r v).pipe = s.pipe := rfl
@[simp] theorem storeSingle_events (r : Reg) (v : BitVec 64): (s.storeSingle r v).events = s.events := rfl
@[simp] theorem storeSingle_draws (r : Reg) (v : BitVec 64): (s.storeSingle r v).draws = s.draws := rfl

@[simp] theorem storeFp_cfg (d : Bool) (r : Reg) (v : BitVec 64): (s.storeFp d r v).cfg = s.cfg := by unfold State.storeFp; split <;> rfl
@[simp] theorem storeFp_gpr (d : Bool) (r : Reg) (v : BitVec 64): (s.storeFp d r v).gpr = s.gpr := by unfold State.storeFp; split <;> rfl
@[simp] theorem storeFp_hi (d : Bool) (r : Reg) (v : BitVec 64): (s.storeFp d r v).hi = s.hi := by unfold State.storeFp; split <;> rfl
@[simp] theorem storeFp_lo (d : Bool) (r : Reg) (v : BitVec 64): (s.storeFp d r v).lo = s.lo := by unfold State.storeFp; split <;> rfl
@[simp] theorem storeFp_pc (d : Bool) (r : Reg) (v : BitVec 64): (s.storeFp d r v).pc = s.pc := by unfold State.storeFp; split <;> rfl
@[simp] theorem storeFp_npc (d : Bool) (r : Reg) (v : BitVec 64): (s.storeFp d r v).npc = s.npc := by unfold State.storeFp; split <;> rfl
@[simp] theorem storeFp_inDelay (d : Bool) (r : Reg) (v : BitVec 64): (s.storeFp d r v).inDelay = s.inDelay := by unfold State.storeFp; split <;> rfl
@[simp] theorem storeFp_cp0 (d : Bool) (r : Reg) (v : BitVec 64): (s.storeFp d r v).cp0 = s.cp0 := by unfold State.storeFp; split <;> rfl
@[simp] theorem storeFp_tlb (d : Bool) (r : Reg) (v : BitVec 64): (s.storeFp d r v).tlb = s.tlb := by unfold State.storeFp; split <;> rfl
@[simp] theorem storeFp_utlb (d : Bool) (r : Reg) (v : BitVec 64): (s.storeFp d r v).utlb = s.utlb := by unfold State.storeFp; split <;> rfl
@[simp] theorem storeFp_fcr31 (d : Bool) (r : Reg) (v : BitVec 64): (s.storeFp d r v).fcr31 = s.fcr31 := by unfold State.storeFp; split <;> rfl
@[simp] theorem storeFp_mem (d : Bool) (r : Reg) (v : BitVec 64): (s.storeFp d r v).mem = s.mem := by unfold State.storeFp; split <;> rfl
@[simp] theorem storeFp_wbuf (d : Bool) (r : Reg) (v : BitVec 64): (s.storeFp d r v).wbuf = s.wbuf := by unfold State.storeFp; split <;> rfl
@[simp] theorem storeFp_dcache (d : Bool) (r : Reg) (v : BitVec 64): (s.storeFp d r v).dcache = s.dcache := by unfold State.storeFp; split <;> rfl
@[simp] theorem storeFp_icache (d : Bool) (r : Reg) (v : BitVec 64): (s.storeFp d r v).icache = s.icache := by unfold State.storeFp; split <;> rfl
@[simp] theorem storeFp_pins (d : Bool) (r : Reg) (v : BitVec 64): (s.storeFp d r v).pins = s.pins := by unfold State.storeFp; split <;> rfl
@[simp] theorem storeFp_pipe (d : Bool) (r : Reg) (v : BitVec 64): (s.storeFp d r v).pipe = s.pipe := by unfold State.storeFp; split <;> rfl
@[simp] theorem storeFp_events (d : Bool) (r : Reg) (v : BitVec 64): (s.storeFp d r v).events = s.events := by unfold State.storeFp; split <;> rfl
@[simp] theorem storeFp_draws (d : Bool) (r : Reg) (v : BitVec 64): (s.storeFp d r v).draws = s.draws := by unfold State.storeFp; split <;> rfl

@[simp] theorem advance_cfg : (s.advance).cfg = s.cfg := rfl
@[simp] theorem advance_gpr : (s.advance).gpr = s.gpr := rfl
@[simp] theorem advance_hi : (s.advance).hi = s.hi := rfl
@[simp] theorem advance_lo : (s.advance).lo = s.lo := rfl
@[simp] theorem advance_cp0 : (s.advance).cp0 = s.cp0 := rfl
@[simp] theorem advance_tlb : (s.advance).tlb = s.tlb := rfl
@[simp] theorem advance_utlb : (s.advance).utlb = s.utlb := rfl
@[simp] theorem advance_fpr : (s.advance).fpr = s.fpr := rfl
@[simp] theorem advance_fcr31 : (s.advance).fcr31 = s.fcr31 := rfl
@[simp] theorem advance_mem : (s.advance).mem = s.mem := rfl
@[simp] theorem advance_wbuf : (s.advance).wbuf = s.wbuf := rfl
@[simp] theorem advance_dcache : (s.advance).dcache = s.dcache := rfl
@[simp] theorem advance_icache : (s.advance).icache = s.icache := rfl
@[simp] theorem advance_pins : (s.advance).pins = s.pins := rfl
@[simp] theorem advance_pipe : (s.advance).pipe = s.pipe := rfl
@[simp] theorem advance_events : (s.advance).events = s.events := rfl
@[simp] theorem advance_draws : (s.advance).draws = s.draws := rfl

@[simp] theorem noteCp0_cfg (r : Reg) (v : Word) (m n : Nat): (s.noteCp0 r v m n).cfg = s.cfg := rfl
@[simp] theorem noteCp0_gpr (r : Reg) (v : Word) (m n : Nat): (s.noteCp0 r v m n).gpr = s.gpr := rfl
@[simp] theorem noteCp0_hi (r : Reg) (v : Word) (m n : Nat): (s.noteCp0 r v m n).hi = s.hi := rfl
@[simp] theorem noteCp0_lo (r : Reg) (v : Word) (m n : Nat): (s.noteCp0 r v m n).lo = s.lo := rfl
@[simp] theorem noteCp0_pc (r : Reg) (v : Word) (m n : Nat): (s.noteCp0 r v m n).pc = s.pc := rfl
@[simp] theorem noteCp0_npc (r : Reg) (v : Word) (m n : Nat): (s.noteCp0 r v m n).npc = s.npc := rfl
@[simp] theorem noteCp0_inDelay (r : Reg) (v : Word) (m n : Nat): (s.noteCp0 r v m n).inDelay = s.inDelay := rfl
@[simp] theorem noteCp0_cp0 (r : Reg) (v : Word) (m n : Nat): (s.noteCp0 r v m n).cp0 = s.cp0 := rfl
@[simp] theorem noteCp0_tlb (r : Reg) (v : Word) (m n : Nat): (s.noteCp0 r v m n).tlb = s.tlb := rfl
@[simp] theorem noteCp0_utlb (r : Reg) (v : Word) (m n : Nat): (s.noteCp0 r v m n).utlb = s.utlb := rfl
@[simp] theorem noteCp0_fpr (r : Reg) (v : Word) (m n : Nat): (s.noteCp0 r v m n).fpr = s.fpr := rfl
@[simp] theorem noteCp0_fcr31 (r : Reg) (v : Word) (m n : Nat): (s.noteCp0 r v m n).fcr31 = s.fcr31 := rfl
@[simp] theorem noteCp0_mem (r : Reg) (v : Word) (m n : Nat): (s.noteCp0 r v m n).mem = s.mem := rfl
@[simp] theorem noteCp0_wbuf (r : Reg) (v : Word) (m n : Nat): (s.noteCp0 r v m n).wbuf = s.wbuf := rfl
@[simp] theorem noteCp0_dcache (r : Reg) (v : Word) (m n : Nat): (s.noteCp0 r v m n).dcache = s.dcache := rfl
@[simp] theorem noteCp0_icache (r : Reg) (v : Word) (m n : Nat): (s.noteCp0 r v m n).icache = s.icache := rfl
@[simp] theorem noteCp0_pins (r : Reg) (v : Word) (m n : Nat): (s.noteCp0 r v m n).pins = s.pins := rfl
@[simp] theorem noteCp0_events (r : Reg) (v : Word) (m n : Nat): (s.noteCp0 r v m n).events = s.events := rfl
@[simp] theorem noteCp0_draws (r : Reg) (v : Word) (m n : Nat): (s.noteCp0 r v m n).draws = s.draws := rfl

@[simp] theorem updateSr_cfg (f : Word → Word): (s.updateSr f).cfg = s.cfg := rfl
@[simp] theorem updateSr_gpr (f : Word → Word): (s.updateSr f).gpr = s.gpr := rfl
@[simp] theorem updateSr_hi (f : Word → Word): (s.updateSr f).hi = s.hi := rfl
@[simp] theorem updateSr_lo (f : Word → Word): (s.updateSr f).lo = s.lo := rfl
@[simp] theorem updateSr_pc (f : Word → Word): (s.updateSr f).pc = s.pc := rfl
@[simp] theorem updateSr_npc (f : Word → Word): (s.updateSr f).npc = s.npc := rfl
@[simp] theorem updateSr_inDelay (f : Word → Word): (s.updateSr f).inDelay = s.inDelay := rfl
@[simp] theorem updateSr_tlb (f : Word → Word): (s.updateSr f).tlb = s.tlb := rfl
@[simp] theorem updateSr_utlb (f : Word → Word): (s.updateSr f).utlb = s.utlb := rfl
@[simp] theorem updateSr_fpr (f : Word → Word): (s.updateSr f).fpr = s.fpr := rfl
@[simp] theorem updateSr_fcr31 (f : Word → Word): (s.updateSr f).fcr31 = s.fcr31 := rfl
@[simp] theorem updateSr_mem (f : Word → Word): (s.updateSr f).mem = s.mem := rfl
@[simp] theorem updateSr_wbuf (f : Word → Word): (s.updateSr f).wbuf = s.wbuf := rfl
@[simp] theorem updateSr_dcache (f : Word → Word): (s.updateSr f).dcache = s.dcache := rfl
@[simp] theorem updateSr_icache (f : Word → Word): (s.updateSr f).icache = s.icache := rfl
@[simp] theorem updateSr_pins (f : Word → Word): (s.updateSr f).pins = s.pins := rfl
@[simp] theorem updateSr_events (f : Word → Word): (s.updateSr f).events = s.events := rfl
@[simp] theorem updateSr_draws (f : Word → Word): (s.updateSr f).draws = s.draws := rfl

@[simp] theorem setCm_cfg (b : Bool): (s.setCm b).cfg = s.cfg := rfl
@[simp] theorem setCm_gpr (b : Bool): (s.setCm b).gpr = s.gpr := rfl
@[simp] theorem setCm_hi (b : Bool): (s.setCm b).hi = s.hi := rfl
@[simp] theorem setCm_lo (b : Bool): (s.setCm b).lo = s.lo := rfl
@[simp] theorem setCm_pc (b : Bool): (s.setCm b).pc = s.pc := rfl
@[simp] theorem setCm_npc (b : Bool): (s.setCm b).npc = s.npc := rfl
@[simp] theorem setCm_inDelay (b : Bool): (s.setCm b).inDelay = s.inDelay := rfl
@[simp] theorem setCm_tlb (b : Bool): (s.setCm b).tlb = s.tlb := rfl
@[simp] theorem setCm_utlb (b : Bool): (s.setCm b).utlb = s.utlb := rfl
@[simp] theorem setCm_fpr (b : Bool): (s.setCm b).fpr = s.fpr := rfl
@[simp] theorem setCm_fcr31 (b : Bool): (s.setCm b).fcr31 = s.fcr31 := rfl
@[simp] theorem setCm_mem (b : Bool): (s.setCm b).mem = s.mem := rfl
@[simp] theorem setCm_wbuf (b : Bool): (s.setCm b).wbuf = s.wbuf := rfl
@[simp] theorem setCm_dcache (b : Bool): (s.setCm b).dcache = s.dcache := rfl
@[simp] theorem setCm_icache (b : Bool): (s.setCm b).icache = s.icache := rfl
@[simp] theorem setCm_pins (b : Bool): (s.setCm b).pins = s.pins := rfl
@[simp] theorem setCm_events (b : Bool): (s.setCm b).events = s.events := rfl
@[simp] theorem setCm_draws (b : Bool): (s.setCm b).draws = s.draws := rfl

@[simp] theorem returnFromException_cfg : (s.returnFromException).cfg = s.cfg := rfl
@[simp] theorem returnFromException_gpr : (s.returnFromException).gpr = s.gpr := rfl
@[simp] theorem returnFromException_hi : (s.returnFromException).hi = s.hi := rfl
@[simp] theorem returnFromException_lo : (s.returnFromException).lo = s.lo := rfl
@[simp] theorem returnFromException_pc : (s.returnFromException).pc = s.pc := rfl
@[simp] theorem returnFromException_npc : (s.returnFromException).npc = s.npc := rfl
@[simp] theorem returnFromException_inDelay : (s.returnFromException).inDelay = s.inDelay := rfl
@[simp] theorem returnFromException_tlb : (s.returnFromException).tlb = s.tlb := rfl
@[simp] theorem returnFromException_utlb : (s.returnFromException).utlb = s.utlb := rfl
@[simp] theorem returnFromException_fpr : (s.returnFromException).fpr = s.fpr := rfl
@[simp] theorem returnFromException_fcr31 : (s.returnFromException).fcr31 = s.fcr31 := rfl
@[simp] theorem returnFromException_mem : (s.returnFromException).mem = s.mem := rfl
@[simp] theorem returnFromException_wbuf : (s.returnFromException).wbuf = s.wbuf := rfl
@[simp] theorem returnFromException_dcache : (s.returnFromException).dcache = s.dcache := rfl
@[simp] theorem returnFromException_icache : (s.returnFromException).icache = s.icache := rfl
@[simp] theorem returnFromException_pins : (s.returnFromException).pins = s.pins := rfl
@[simp] theorem returnFromException_events : (s.returnFromException).events = s.events := rfl
@[simp] theorem returnFromException_draws : (s.returnFromException).draws = s.draws := rfl

@[simp] theorem takeException_cfg (e : Exc): (s.takeException e).cfg = s.cfg := rfl
@[simp] theorem takeException_gpr (e : Exc): (s.takeException e).gpr = s.gpr := rfl
@[simp] theorem takeException_hi (e : Exc): (s.takeException e).hi = s.hi := rfl
@[simp] theorem takeException_lo (e : Exc): (s.takeException e).lo = s.lo := rfl
@[simp] theorem takeException_tlb (e : Exc): (s.takeException e).tlb = s.tlb := rfl
@[simp] theorem takeException_utlb (e : Exc): (s.takeException e).utlb = s.utlb := rfl
@[simp] theorem takeException_fpr (e : Exc): (s.takeException e).fpr = s.fpr := rfl
@[simp] theorem takeException_fcr31 (e : Exc): (s.takeException e).fcr31 = s.fcr31 := rfl
@[simp] theorem takeException_mem (e : Exc): (s.takeException e).mem = s.mem := rfl
@[simp] theorem takeException_wbuf (e : Exc): (s.takeException e).wbuf = s.wbuf := rfl
@[simp] theorem takeException_dcache (e : Exc): (s.takeException e).dcache = s.dcache := rfl
@[simp] theorem takeException_icache (e : Exc): (s.takeException e).icache = s.icache := rfl
@[simp] theorem takeException_pins (e : Exc): (s.takeException e).pins = s.pins := rfl
@[simp] theorem takeException_events (e : Exc): (s.takeException e).events = s.events := rfl
@[simp] theorem takeException_draws (e : Exc): (s.takeException e).draws = s.draws := rfl

@[simp] theorem retire_cfg : (s.retire).cfg = s.cfg := by unfold State.retire; split <;> rfl
@[simp] theorem retire_gpr : (s.retire).gpr = s.gpr := by unfold State.retire; split <;> rfl
@[simp] theorem retire_hi : (s.retire).hi = s.hi := by unfold State.retire; split <;> rfl
@[simp] theorem retire_lo : (s.retire).lo = s.lo := by unfold State.retire; split <;> rfl
@[simp] theorem retire_pc : (s.retire).pc = s.pc := by unfold State.retire; split <;> rfl
@[simp] theorem retire_npc : (s.retire).npc = s.npc := by unfold State.retire; split <;> rfl
@[simp] theorem retire_inDelay : (s.retire).inDelay = s.inDelay := by unfold State.retire; split <;> rfl
@[simp] theorem retire_cp0 : (s.retire).cp0 = s.cp0 := by unfold State.retire; split <;> rfl
@[simp] theorem retire_tlb : (s.retire).tlb = s.tlb := by unfold State.retire; split <;> rfl
@[simp] theorem retire_utlb : (s.retire).utlb = s.utlb := by unfold State.retire; split <;> rfl
@[simp] theorem retire_fpr : (s.retire).fpr = s.fpr := by unfold State.retire; split <;> rfl
@[simp] theorem retire_fcr31 : (s.retire).fcr31 = s.fcr31 := by unfold State.retire; split <;> rfl
@[simp] theorem retire_dcache : (s.retire).dcache = s.dcache := by unfold State.retire; split <;> rfl
@[simp] theorem retire_icache : (s.retire).icache = s.icache := by unfold State.retire; split <;> rfl
@[simp] theorem retire_pins : (s.retire).pins = s.pins := by unfold State.retire; split <;> rfl
@[simp] theorem retire_pipe : (s.retire).pipe = s.pipe := by unfold State.retire; split <;> rfl
@[simp] theorem retire_events : (s.retire).events = s.events := by unfold State.retire; split <;> rfl
@[simp] theorem retire_draws : (s.retire).draws = s.draws := by unfold State.retire; split <;> rfl

@[simp] theorem drain_cfg : (s.drain).cfg = s.cfg := rfl
@[simp] theorem drain_gpr : (s.drain).gpr = s.gpr := rfl
@[simp] theorem drain_hi : (s.drain).hi = s.hi := rfl
@[simp] theorem drain_lo : (s.drain).lo = s.lo := rfl
@[simp] theorem drain_pc : (s.drain).pc = s.pc := rfl
@[simp] theorem drain_npc : (s.drain).npc = s.npc := rfl
@[simp] theorem drain_inDelay : (s.drain).inDelay = s.inDelay := rfl
@[simp] theorem drain_cp0 : (s.drain).cp0 = s.cp0 := rfl
@[simp] theorem drain_tlb : (s.drain).tlb = s.tlb := rfl
@[simp] theorem drain_utlb : (s.drain).utlb = s.utlb := rfl
@[simp] theorem drain_fpr : (s.drain).fpr = s.fpr := rfl
@[simp] theorem drain_fcr31 : (s.drain).fcr31 = s.fcr31 := rfl
@[simp] theorem drain_dcache : (s.drain).dcache = s.dcache := rfl
@[simp] theorem drain_icache : (s.drain).icache = s.icache := rfl
@[simp] theorem drain_pins : (s.drain).pins = s.pins := rfl
@[simp] theorem drain_pipe : (s.drain).pipe = s.pipe := rfl
@[simp] theorem drain_events : (s.drain).events = s.events := rfl
@[simp] theorem drain_draws : (s.drain).draws = s.draws := rfl

@[simp] theorem pushStore_cfg (e : WbEntry): (s.pushStore e).cfg = s.cfg := by unfold State.pushStore; split <;> simp
@[simp] theorem pushStore_gpr (e : WbEntry): (s.pushStore e).gpr = s.gpr := by unfold State.pushStore; split <;> simp
@[simp] theorem pushStore_hi (e : WbEntry): (s.pushStore e).hi = s.hi := by unfold State.pushStore; split <;> simp
@[simp] theorem pushStore_lo (e : WbEntry): (s.pushStore e).lo = s.lo := by unfold State.pushStore; split <;> simp
@[simp] theorem pushStore_pc (e : WbEntry): (s.pushStore e).pc = s.pc := by unfold State.pushStore; split <;> simp
@[simp] theorem pushStore_npc (e : WbEntry): (s.pushStore e).npc = s.npc := by unfold State.pushStore; split <;> simp
@[simp] theorem pushStore_inDelay (e : WbEntry): (s.pushStore e).inDelay = s.inDelay := by unfold State.pushStore; split <;> simp
@[simp] theorem pushStore_cp0 (e : WbEntry): (s.pushStore e).cp0 = s.cp0 := by unfold State.pushStore; split <;> simp
@[simp] theorem pushStore_tlb (e : WbEntry): (s.pushStore e).tlb = s.tlb := by unfold State.pushStore; split <;> simp
@[simp] theorem pushStore_utlb (e : WbEntry): (s.pushStore e).utlb = s.utlb := by unfold State.pushStore; split <;> simp
@[simp] theorem pushStore_fpr (e : WbEntry): (s.pushStore e).fpr = s.fpr := by unfold State.pushStore; split <;> simp
@[simp] theorem pushStore_fcr31 (e : WbEntry): (s.pushStore e).fcr31 = s.fcr31 := by unfold State.pushStore; split <;> simp
@[simp] theorem pushStore_dcache (e : WbEntry): (s.pushStore e).dcache = s.dcache := by unfold State.pushStore; split <;> simp
@[simp] theorem pushStore_icache (e : WbEntry): (s.pushStore e).icache = s.icache := by unfold State.pushStore; split <;> simp
@[simp] theorem pushStore_pins (e : WbEntry): (s.pushStore e).pins = s.pins := by unfold State.pushStore; split <;> simp
@[simp] theorem pushStore_pipe (e : WbEntry): (s.pushStore e).pipe = s.pipe := by unfold State.pushStore; split <;> simp
@[simp] theorem pushStore_events (e : WbEntry): (s.pushStore e).events = s.events := by unfold State.pushStore; split <;> simp
@[simp] theorem pushStore_draws (e : WbEntry): (s.pushStore e).draws = s.draws := by unfold State.pushStore; split <;> simp

@[simp] theorem setDLine_cfg (a : Word) (l : DLine): (s.setDLine a l).cfg = s.cfg := rfl
@[simp] theorem setDLine_gpr (a : Word) (l : DLine): (s.setDLine a l).gpr = s.gpr := rfl
@[simp] theorem setDLine_hi (a : Word) (l : DLine): (s.setDLine a l).hi = s.hi := rfl
@[simp] theorem setDLine_lo (a : Word) (l : DLine): (s.setDLine a l).lo = s.lo := rfl
@[simp] theorem setDLine_pc (a : Word) (l : DLine): (s.setDLine a l).pc = s.pc := rfl
@[simp] theorem setDLine_npc (a : Word) (l : DLine): (s.setDLine a l).npc = s.npc := rfl
@[simp] theorem setDLine_inDelay (a : Word) (l : DLine): (s.setDLine a l).inDelay = s.inDelay := rfl
@[simp] theorem setDLine_cp0 (a : Word) (l : DLine): (s.setDLine a l).cp0 = s.cp0 := rfl
@[simp] theorem setDLine_tlb (a : Word) (l : DLine): (s.setDLine a l).tlb = s.tlb := rfl
@[simp] theorem setDLine_utlb (a : Word) (l : DLine): (s.setDLine a l).utlb = s.utlb := rfl
@[simp] theorem setDLine_fpr (a : Word) (l : DLine): (s.setDLine a l).fpr = s.fpr := rfl
@[simp] theorem setDLine_fcr31 (a : Word) (l : DLine): (s.setDLine a l).fcr31 = s.fcr31 := rfl
@[simp] theorem setDLine_mem (a : Word) (l : DLine): (s.setDLine a l).mem = s.mem := rfl
@[simp] theorem setDLine_wbuf (a : Word) (l : DLine): (s.setDLine a l).wbuf = s.wbuf := rfl
@[simp] theorem setDLine_icache (a : Word) (l : DLine): (s.setDLine a l).icache = s.icache := rfl
@[simp] theorem setDLine_pins (a : Word) (l : DLine): (s.setDLine a l).pins = s.pins := rfl
@[simp] theorem setDLine_pipe (a : Word) (l : DLine): (s.setDLine a l).pipe = s.pipe := rfl
@[simp] theorem setDLine_events (a : Word) (l : DLine): (s.setDLine a l).events = s.events := rfl
@[simp] theorem setDLine_draws (a : Word) (l : DLine): (s.setDLine a l).draws = s.draws := rfl

@[simp] theorem setILine_cfg (a : Word) (l : ILine): (s.setILine a l).cfg = s.cfg := rfl
@[simp] theorem setILine_gpr (a : Word) (l : ILine): (s.setILine a l).gpr = s.gpr := rfl
@[simp] theorem setILine_hi (a : Word) (l : ILine): (s.setILine a l).hi = s.hi := rfl
@[simp] theorem setILine_lo (a : Word) (l : ILine): (s.setILine a l).lo = s.lo := rfl
@[simp] theorem setILine_pc (a : Word) (l : ILine): (s.setILine a l).pc = s.pc := rfl
@[simp] theorem setILine_npc (a : Word) (l : ILine): (s.setILine a l).npc = s.npc := rfl
@[simp] theorem setILine_inDelay (a : Word) (l : ILine): (s.setILine a l).inDelay = s.inDelay := rfl
@[simp] theorem setILine_cp0 (a : Word) (l : ILine): (s.setILine a l).cp0 = s.cp0 := rfl
@[simp] theorem setILine_tlb (a : Word) (l : ILine): (s.setILine a l).tlb = s.tlb := rfl
@[simp] theorem setILine_utlb (a : Word) (l : ILine): (s.setILine a l).utlb = s.utlb := rfl
@[simp] theorem setILine_fpr (a : Word) (l : ILine): (s.setILine a l).fpr = s.fpr := rfl
@[simp] theorem setILine_fcr31 (a : Word) (l : ILine): (s.setILine a l).fcr31 = s.fcr31 := rfl
@[simp] theorem setILine_mem (a : Word) (l : ILine): (s.setILine a l).mem = s.mem := rfl
@[simp] theorem setILine_wbuf (a : Word) (l : ILine): (s.setILine a l).wbuf = s.wbuf := rfl
@[simp] theorem setILine_dcache (a : Word) (l : ILine): (s.setILine a l).dcache = s.dcache := rfl
@[simp] theorem setILine_pins (a : Word) (l : ILine): (s.setILine a l).pins = s.pins := rfl
@[simp] theorem setILine_pipe (a : Word) (l : ILine): (s.setILine a l).pipe = s.pipe := rfl
@[simp] theorem setILine_events (a : Word) (l : ILine): (s.setILine a l).events = s.events := rfl
@[simp] theorem setILine_draws (a : Word) (l : ILine): (s.setILine a l).draws = s.draws := rfl

@[simp] theorem fillDBlock_cfg (a : Word) (w : Vector Word 4): (s.fillDBlock a w).cfg = s.cfg := rfl
@[simp] theorem fillDBlock_gpr (a : Word) (w : Vector Word 4): (s.fillDBlock a w).gpr = s.gpr := rfl
@[simp] theorem fillDBlock_hi (a : Word) (w : Vector Word 4): (s.fillDBlock a w).hi = s.hi := rfl
@[simp] theorem fillDBlock_lo (a : Word) (w : Vector Word 4): (s.fillDBlock a w).lo = s.lo := rfl
@[simp] theorem fillDBlock_pc (a : Word) (w : Vector Word 4): (s.fillDBlock a w).pc = s.pc := rfl
@[simp] theorem fillDBlock_npc (a : Word) (w : Vector Word 4): (s.fillDBlock a w).npc = s.npc := rfl
@[simp] theorem fillDBlock_inDelay (a : Word) (w : Vector Word 4): (s.fillDBlock a w).inDelay = s.inDelay := rfl
@[simp] theorem fillDBlock_cp0 (a : Word) (w : Vector Word 4): (s.fillDBlock a w).cp0 = s.cp0 := rfl
@[simp] theorem fillDBlock_tlb (a : Word) (w : Vector Word 4): (s.fillDBlock a w).tlb = s.tlb := rfl
@[simp] theorem fillDBlock_utlb (a : Word) (w : Vector Word 4): (s.fillDBlock a w).utlb = s.utlb := rfl
@[simp] theorem fillDBlock_fpr (a : Word) (w : Vector Word 4): (s.fillDBlock a w).fpr = s.fpr := rfl
@[simp] theorem fillDBlock_fcr31 (a : Word) (w : Vector Word 4): (s.fillDBlock a w).fcr31 = s.fcr31 := rfl
@[simp] theorem fillDBlock_mem (a : Word) (w : Vector Word 4): (s.fillDBlock a w).mem = s.mem := rfl
@[simp] theorem fillDBlock_wbuf (a : Word) (w : Vector Word 4): (s.fillDBlock a w).wbuf = s.wbuf := rfl
@[simp] theorem fillDBlock_icache (a : Word) (w : Vector Word 4): (s.fillDBlock a w).icache = s.icache := rfl
@[simp] theorem fillDBlock_pins (a : Word) (w : Vector Word 4): (s.fillDBlock a w).pins = s.pins := rfl
@[simp] theorem fillDBlock_pipe (a : Word) (w : Vector Word 4): (s.fillDBlock a w).pipe = s.pipe := rfl
@[simp] theorem fillDBlock_events (a : Word) (w : Vector Word 4): (s.fillDBlock a w).events = s.events := rfl
@[simp] theorem fillDBlock_draws (a : Word) (w : Vector Word 4): (s.fillDBlock a w).draws = s.draws := rfl

@[simp] theorem isolatedWrite_cfg (a d : Word) (be : BitVec 4): (s.isolatedWrite a d be).cfg = s.cfg := by unfold State.isolatedWrite; split <;> split <;> rfl
@[simp] theorem isolatedWrite_gpr (a d : Word) (be : BitVec 4): (s.isolatedWrite a d be).gpr = s.gpr := by unfold State.isolatedWrite; split <;> split <;> rfl
@[simp] theorem isolatedWrite_hi (a d : Word) (be : BitVec 4): (s.isolatedWrite a d be).hi = s.hi := by unfold State.isolatedWrite; split <;> split <;> rfl
@[simp] theorem isolatedWrite_lo (a d : Word) (be : BitVec 4): (s.isolatedWrite a d be).lo = s.lo := by unfold State.isolatedWrite; split <;> split <;> rfl
@[simp] theorem isolatedWrite_pc (a d : Word) (be : BitVec 4): (s.isolatedWrite a d be).pc = s.pc := by unfold State.isolatedWrite; split <;> split <;> rfl
@[simp] theorem isolatedWrite_npc (a d : Word) (be : BitVec 4): (s.isolatedWrite a d be).npc = s.npc := by unfold State.isolatedWrite; split <;> split <;> rfl
@[simp] theorem isolatedWrite_inDelay (a d : Word) (be : BitVec 4): (s.isolatedWrite a d be).inDelay = s.inDelay := by unfold State.isolatedWrite; split <;> split <;> rfl
@[simp] theorem isolatedWrite_cp0 (a d : Word) (be : BitVec 4): (s.isolatedWrite a d be).cp0 = s.cp0 := by unfold State.isolatedWrite; split <;> split <;> rfl
@[simp] theorem isolatedWrite_tlb (a d : Word) (be : BitVec 4): (s.isolatedWrite a d be).tlb = s.tlb := by unfold State.isolatedWrite; split <;> split <;> rfl
@[simp] theorem isolatedWrite_utlb (a d : Word) (be : BitVec 4): (s.isolatedWrite a d be).utlb = s.utlb := by unfold State.isolatedWrite; split <;> split <;> rfl
@[simp] theorem isolatedWrite_fpr (a d : Word) (be : BitVec 4): (s.isolatedWrite a d be).fpr = s.fpr := by unfold State.isolatedWrite; split <;> split <;> rfl
@[simp] theorem isolatedWrite_fcr31 (a d : Word) (be : BitVec 4): (s.isolatedWrite a d be).fcr31 = s.fcr31 := by unfold State.isolatedWrite; split <;> split <;> rfl
@[simp] theorem isolatedWrite_mem (a d : Word) (be : BitVec 4): (s.isolatedWrite a d be).mem = s.mem := by unfold State.isolatedWrite; split <;> split <;> rfl
@[simp] theorem isolatedWrite_wbuf (a d : Word) (be : BitVec 4): (s.isolatedWrite a d be).wbuf = s.wbuf := by unfold State.isolatedWrite; split <;> split <;> rfl
@[simp] theorem isolatedWrite_pins (a d : Word) (be : BitVec 4): (s.isolatedWrite a d be).pins = s.pins := by unfold State.isolatedWrite; split <;> split <;> rfl
@[simp] theorem isolatedWrite_pipe (a d : Word) (be : BitVec 4): (s.isolatedWrite a d be).pipe = s.pipe := by unfold State.isolatedWrite; split <;> split <;> rfl
@[simp] theorem isolatedWrite_events (a d : Word) (be : BitVec 4): (s.isolatedWrite a d be).events = s.events := by unfold State.isolatedWrite; split <;> split <;> rfl
@[simp] theorem isolatedWrite_draws (a d : Word) (be : BitVec 4): (s.isolatedWrite a d be).draws = s.draws := by unfold State.isolatedWrite; split <;> split <;> rfl

@[simp] theorem cacheStore_cfg (a d : Word) (be : BitVec 4): (s.cacheStore a d be).cfg = s.cfg := by unfold State.cacheStore; split <;> [rfl; (split <;> rfl)]
@[simp] theorem cacheStore_gpr (a d : Word) (be : BitVec 4): (s.cacheStore a d be).gpr = s.gpr := by unfold State.cacheStore; split <;> [rfl; (split <;> rfl)]
@[simp] theorem cacheStore_hi (a d : Word) (be : BitVec 4): (s.cacheStore a d be).hi = s.hi := by unfold State.cacheStore; split <;> [rfl; (split <;> rfl)]
@[simp] theorem cacheStore_lo (a d : Word) (be : BitVec 4): (s.cacheStore a d be).lo = s.lo := by unfold State.cacheStore; split <;> [rfl; (split <;> rfl)]
@[simp] theorem cacheStore_pc (a d : Word) (be : BitVec 4): (s.cacheStore a d be).pc = s.pc := by unfold State.cacheStore; split <;> [rfl; (split <;> rfl)]
@[simp] theorem cacheStore_npc (a d : Word) (be : BitVec 4): (s.cacheStore a d be).npc = s.npc := by unfold State.cacheStore; split <;> [rfl; (split <;> rfl)]
@[simp] theorem cacheStore_inDelay (a d : Word) (be : BitVec 4): (s.cacheStore a d be).inDelay = s.inDelay := by unfold State.cacheStore; split <;> [rfl; (split <;> rfl)]
@[simp] theorem cacheStore_cp0 (a d : Word) (be : BitVec 4): (s.cacheStore a d be).cp0 = s.cp0 := by unfold State.cacheStore; split <;> [rfl; (split <;> rfl)]
@[simp] theorem cacheStore_tlb (a d : Word) (be : BitVec 4): (s.cacheStore a d be).tlb = s.tlb := by unfold State.cacheStore; split <;> [rfl; (split <;> rfl)]
@[simp] theorem cacheStore_utlb (a d : Word) (be : BitVec 4): (s.cacheStore a d be).utlb = s.utlb := by unfold State.cacheStore; split <;> [rfl; (split <;> rfl)]
@[simp] theorem cacheStore_fpr (a d : Word) (be : BitVec 4): (s.cacheStore a d be).fpr = s.fpr := by unfold State.cacheStore; split <;> [rfl; (split <;> rfl)]
@[simp] theorem cacheStore_fcr31 (a d : Word) (be : BitVec 4): (s.cacheStore a d be).fcr31 = s.fcr31 := by unfold State.cacheStore; split <;> [rfl; (split <;> rfl)]
@[simp] theorem cacheStore_mem (a d : Word) (be : BitVec 4): (s.cacheStore a d be).mem = s.mem := by unfold State.cacheStore; split <;> [rfl; (split <;> rfl)]
@[simp] theorem cacheStore_wbuf (a d : Word) (be : BitVec 4): (s.cacheStore a d be).wbuf = s.wbuf := by unfold State.cacheStore; split <;> [rfl; (split <;> rfl)]
@[simp] theorem cacheStore_icache (a d : Word) (be : BitVec 4): (s.cacheStore a d be).icache = s.icache := by unfold State.cacheStore; split <;> [rfl; (split <;> rfl)]
@[simp] theorem cacheStore_pins (a d : Word) (be : BitVec 4): (s.cacheStore a d be).pins = s.pins := by unfold State.cacheStore; split <;> [rfl; (split <;> rfl)]
@[simp] theorem cacheStore_pipe (a d : Word) (be : BitVec 4): (s.cacheStore a d be).pipe = s.pipe := by unfold State.cacheStore; split <;> [rfl; (split <;> rfl)]
@[simp] theorem cacheStore_events (a d : Word) (be : BitVec 4): (s.cacheStore a d be).events = s.events := by unfold State.cacheStore; split <;> [rfl; (split <;> rfl)]
@[simp] theorem cacheStore_draws (a d : Word) (be : BitVec 4): (s.cacheStore a d be).draws = s.draws := by unfold State.cacheStore; split <;> [rfl; (split <;> rfl)]

@[simp] theorem writeData_cfg (u : Bool) (a d : Word) (be : BitVec 4): (s.writeData u a d be).cfg = s.cfg := by unfold State.writeData; simp only []; split <;> [simp; (split <;> [simp; (split <;> simp)])]
@[simp] theorem writeData_gpr (u : Bool) (a d : Word) (be : BitVec 4): (s.writeData u a d be).gpr = s.gpr := by unfold State.writeData; simp only []; split <;> [simp; (split <;> [simp; (split <;> simp)])]
@[simp] theorem writeData_hi (u : Bool) (a d : Word) (be : BitVec 4): (s.writeData u a d be).hi = s.hi := by unfold State.writeData; simp only []; split <;> [simp; (split <;> [simp; (split <;> simp)])]
@[simp] theorem writeData_lo (u : Bool) (a d : Word) (be : BitVec 4): (s.writeData u a d be).lo = s.lo := by unfold State.writeData; simp only []; split <;> [simp; (split <;> [simp; (split <;> simp)])]
@[simp] theorem writeData_pc (u : Bool) (a d : Word) (be : BitVec 4): (s.writeData u a d be).pc = s.pc := by unfold State.writeData; simp only []; split <;> [simp; (split <;> [simp; (split <;> simp)])]
@[simp] theorem writeData_npc (u : Bool) (a d : Word) (be : BitVec 4): (s.writeData u a d be).npc = s.npc := by unfold State.writeData; simp only []; split <;> [simp; (split <;> [simp; (split <;> simp)])]
@[simp] theorem writeData_inDelay (u : Bool) (a d : Word) (be : BitVec 4): (s.writeData u a d be).inDelay = s.inDelay := by unfold State.writeData; simp only []; split <;> [simp; (split <;> [simp; (split <;> simp)])]
@[simp] theorem writeData_cp0 (u : Bool) (a d : Word) (be : BitVec 4): (s.writeData u a d be).cp0 = s.cp0 := by unfold State.writeData; simp only []; split <;> [simp; (split <;> [simp; (split <;> simp)])]
@[simp] theorem writeData_tlb (u : Bool) (a d : Word) (be : BitVec 4): (s.writeData u a d be).tlb = s.tlb := by unfold State.writeData; simp only []; split <;> [simp; (split <;> [simp; (split <;> simp)])]
@[simp] theorem writeData_utlb (u : Bool) (a d : Word) (be : BitVec 4): (s.writeData u a d be).utlb = s.utlb := by unfold State.writeData; simp only []; split <;> [simp; (split <;> [simp; (split <;> simp)])]
@[simp] theorem writeData_fpr (u : Bool) (a d : Word) (be : BitVec 4): (s.writeData u a d be).fpr = s.fpr := by unfold State.writeData; simp only []; split <;> [simp; (split <;> [simp; (split <;> simp)])]
@[simp] theorem writeData_fcr31 (u : Bool) (a d : Word) (be : BitVec 4): (s.writeData u a d be).fcr31 = s.fcr31 := by unfold State.writeData; simp only []; split <;> [simp; (split <;> [simp; (split <;> simp)])]
@[simp] theorem writeData_pins (u : Bool) (a d : Word) (be : BitVec 4): (s.writeData u a d be).pins = s.pins := by unfold State.writeData; simp only []; split <;> [simp; (split <;> [simp; (split <;> simp)])]
@[simp] theorem writeData_pipe (u : Bool) (a d : Word) (be : BitVec 4): (s.writeData u a d be).pipe = s.pipe := by unfold State.writeData; simp only []; split <;> [simp; (split <;> [simp; (split <;> simp)])]
@[simp] theorem writeData_events (u : Bool) (a d : Word) (be : BitVec 4): (s.writeData u a d be).events = s.events := by unfold State.writeData; simp only []; split <;> [simp; (split <;> [simp; (split <;> simp)])]
@[simp] theorem writeData_draws (u : Bool) (a d : Word) (be : BitVec 4): (s.writeData u a d be).draws = s.draws := by unfold State.writeData; simp only []; split <;> [simp; (split <;> [simp; (split <;> simp)])]

@[simp] theorem draw_cfg : (s.draw).cfg = s.cfg := rfl
@[simp] theorem draw_gpr : (s.draw).gpr = s.gpr := rfl
@[simp] theorem draw_hi : (s.draw).hi = s.hi := rfl
@[simp] theorem draw_lo : (s.draw).lo = s.lo := rfl
@[simp] theorem draw_pc : (s.draw).pc = s.pc := rfl
@[simp] theorem draw_npc : (s.draw).npc = s.npc := rfl
@[simp] theorem draw_inDelay : (s.draw).inDelay = s.inDelay := rfl
@[simp] theorem draw_cp0 : (s.draw).cp0 = s.cp0 := rfl
@[simp] theorem draw_tlb : (s.draw).tlb = s.tlb := rfl
@[simp] theorem draw_utlb : (s.draw).utlb = s.utlb := rfl
@[simp] theorem draw_fpr : (s.draw).fpr = s.fpr := rfl
@[simp] theorem draw_fcr31 : (s.draw).fcr31 = s.fcr31 := rfl
@[simp] theorem draw_mem : (s.draw).mem = s.mem := rfl
@[simp] theorem draw_wbuf : (s.draw).wbuf = s.wbuf := rfl
@[simp] theorem draw_dcache : (s.draw).dcache = s.dcache := rfl
@[simp] theorem draw_icache : (s.draw).icache = s.icache := rfl
@[simp] theorem draw_pins : (s.draw).pins = s.pins := rfl
@[simp] theorem draw_pipe : (s.draw).pipe = s.pipe := rfl
@[simp] theorem draw_events : (s.draw).events = s.events := rfl

@[simp] theorem rotated_cfg : (s.rotated).cfg = s.cfg := rfl
@[simp] theorem rotated_gpr : (s.rotated).gpr = s.gpr := rfl
@[simp] theorem rotated_hi : (s.rotated).hi = s.hi := rfl
@[simp] theorem rotated_lo : (s.rotated).lo = s.lo := rfl
@[simp] theorem rotated_pc : (s.rotated).pc = s.pc := rfl
@[simp] theorem rotated_npc : (s.rotated).npc = s.npc := rfl
@[simp] theorem rotated_inDelay : (s.rotated).inDelay = s.inDelay := rfl
@[simp] theorem rotated_cp0 : (s.rotated).cp0 = s.cp0 := rfl
@[simp] theorem rotated_tlb : (s.rotated).tlb = s.tlb := rfl
@[simp] theorem rotated_utlb : (s.rotated).utlb = s.utlb := rfl
@[simp] theorem rotated_fpr : (s.rotated).fpr = s.fpr := rfl
@[simp] theorem rotated_fcr31 : (s.rotated).fcr31 = s.fcr31 := rfl
@[simp] theorem rotated_mem : (s.rotated).mem = s.mem := rfl
@[simp] theorem rotated_wbuf : (s.rotated).wbuf = s.wbuf := rfl
@[simp] theorem rotated_dcache : (s.rotated).dcache = s.dcache := rfl
@[simp] theorem rotated_icache : (s.rotated).icache = s.icache := rfl
@[simp] theorem rotated_pins : (s.rotated).pins = s.pins := rfl
@[simp] theorem rotated_events : (s.rotated).events = s.events := rfl

@[simp] theorem atBoundary_cfg : (s.atBoundary).cfg = s.cfg := rfl
@[simp] theorem atBoundary_gpr : (s.atBoundary).gpr = s.gpr := rfl
@[simp] theorem atBoundary_hi : (s.atBoundary).hi = s.hi := rfl
@[simp] theorem atBoundary_lo : (s.atBoundary).lo = s.lo := rfl
@[simp] theorem atBoundary_pc : (s.atBoundary).pc = s.pc := rfl
@[simp] theorem atBoundary_npc : (s.atBoundary).npc = s.npc := rfl
@[simp] theorem atBoundary_inDelay : (s.atBoundary).inDelay = s.inDelay := rfl
@[simp] theorem atBoundary_cp0 : (s.atBoundary).cp0 = s.cp0 := rfl
@[simp] theorem atBoundary_tlb : (s.atBoundary).tlb = s.tlb := rfl
@[simp] theorem atBoundary_utlb : (s.atBoundary).utlb = s.utlb := rfl
@[simp] theorem atBoundary_fpr : (s.atBoundary).fpr = s.fpr := rfl
@[simp] theorem atBoundary_fcr31 : (s.atBoundary).fcr31 = s.fcr31 := rfl
@[simp] theorem atBoundary_mem : (s.atBoundary).mem = s.mem := rfl
@[simp] theorem atBoundary_wbuf : (s.atBoundary).wbuf = s.wbuf := rfl
@[simp] theorem atBoundary_dcache : (s.atBoundary).dcache = s.dcache := rfl
@[simp] theorem atBoundary_icache : (s.atBoundary).icache = s.icache := rfl
@[simp] theorem atBoundary_pins : (s.atBoundary).pins = s.pins := rfl
@[simp] theorem atBoundary_events : (s.atBoundary).events = s.events := rfl
@[simp] theorem atBoundary_draws : (s.atBoundary).draws = s.draws := rfl

@[simp] theorem takeHiLo_cfg (u : State): (s.takeHiLo u).cfg = s.cfg := rfl
@[simp] theorem takeHiLo_gpr (u : State): (s.takeHiLo u).gpr = s.gpr := rfl
@[simp] theorem takeHiLo_pc (u : State): (s.takeHiLo u).pc = s.pc := rfl
@[simp] theorem takeHiLo_npc (u : State): (s.takeHiLo u).npc = s.npc := rfl
@[simp] theorem takeHiLo_inDelay (u : State): (s.takeHiLo u).inDelay = s.inDelay := rfl
@[simp] theorem takeHiLo_cp0 (u : State): (s.takeHiLo u).cp0 = s.cp0 := rfl
@[simp] theorem takeHiLo_tlb (u : State): (s.takeHiLo u).tlb = s.tlb := rfl
@[simp] theorem takeHiLo_utlb (u : State): (s.takeHiLo u).utlb = s.utlb := rfl
@[simp] theorem takeHiLo_fpr (u : State): (s.takeHiLo u).fpr = s.fpr := rfl
@[simp] theorem takeHiLo_fcr31 (u : State): (s.takeHiLo u).fcr31 = s.fcr31 := rfl
@[simp] theorem takeHiLo_mem (u : State): (s.takeHiLo u).mem = s.mem := rfl
@[simp] theorem takeHiLo_wbuf (u : State): (s.takeHiLo u).wbuf = s.wbuf := rfl
@[simp] theorem takeHiLo_dcache (u : State): (s.takeHiLo u).dcache = s.dcache := rfl
@[simp] theorem takeHiLo_icache (u : State): (s.takeHiLo u).icache = s.icache := rfl
@[simp] theorem takeHiLo_pins (u : State): (s.takeHiLo u).pins = s.pins := rfl
@[simp] theorem takeHiLo_events (u : State): (s.takeHiLo u).events = s.events := rfl
@[simp] theorem takeHiLo_draws (u : State): (s.takeHiLo u).draws = s.draws := rfl

@[simp] theorem startHandler_cfg : (s.startHandler).cfg = s.cfg := by unfold State.startHandler; split <;> [rfl; (simp only []; split <;> [rfl; (split <;> rfl)])]
@[simp] theorem startHandler_gpr : (s.startHandler).gpr = s.gpr := by unfold State.startHandler; split <;> [rfl; (simp only []; split <;> [rfl; (split <;> rfl)])]
@[simp] theorem startHandler_pc : (s.startHandler).pc = s.pc := by unfold State.startHandler; split <;> [rfl; (simp only []; split <;> [rfl; (split <;> rfl)])]
@[simp] theorem startHandler_npc : (s.startHandler).npc = s.npc := by unfold State.startHandler; split <;> [rfl; (simp only []; split <;> [rfl; (split <;> rfl)])]
@[simp] theorem startHandler_inDelay : (s.startHandler).inDelay = s.inDelay := by unfold State.startHandler; split <;> [rfl; (simp only []; split <;> [rfl; (split <;> rfl)])]
@[simp] theorem startHandler_cp0 : (s.startHandler).cp0 = s.cp0 := by unfold State.startHandler; split <;> [rfl; (simp only []; split <;> [rfl; (split <;> rfl)])]
@[simp] theorem startHandler_tlb : (s.startHandler).tlb = s.tlb := by unfold State.startHandler; split <;> [rfl; (simp only []; split <;> [rfl; (split <;> rfl)])]
@[simp] theorem startHandler_utlb : (s.startHandler).utlb = s.utlb := by unfold State.startHandler; split <;> [rfl; (simp only []; split <;> [rfl; (split <;> rfl)])]
@[simp] theorem startHandler_fpr : (s.startHandler).fpr = s.fpr := by unfold State.startHandler; split <;> [rfl; (simp only []; split <;> [rfl; (split <;> rfl)])]
@[simp] theorem startHandler_fcr31 : (s.startHandler).fcr31 = s.fcr31 := by unfold State.startHandler; split <;> [rfl; (simp only []; split <;> [rfl; (split <;> rfl)])]
@[simp] theorem startHandler_mem : (s.startHandler).mem = s.mem := by unfold State.startHandler; split <;> [rfl; (simp only []; split <;> [rfl; (split <;> rfl)])]
@[simp] theorem startHandler_wbuf : (s.startHandler).wbuf = s.wbuf := by unfold State.startHandler; split <;> [rfl; (simp only []; split <;> [rfl; (split <;> rfl)])]
@[simp] theorem startHandler_dcache : (s.startHandler).dcache = s.dcache := by unfold State.startHandler; split <;> [rfl; (simp only []; split <;> [rfl; (split <;> rfl)])]
@[simp] theorem startHandler_icache : (s.startHandler).icache = s.icache := by unfold State.startHandler; split <;> [rfl; (simp only []; split <;> [rfl; (split <;> rfl)])]
@[simp] theorem startHandler_pins : (s.startHandler).pins = s.pins := by unfold State.startHandler; split <;> [rfl; (simp only []; split <;> [rfl; (split <;> rfl)])]
@[simp] theorem startHandler_events : (s.startHandler).events = s.events := by unfold State.startHandler; split <;> [rfl; (simp only []; split <;> [rfl; (split <;> rfl)])]
@[simp] theorem startHandler_draws : (s.startHandler).draws = s.draws := by unfold State.startHandler; split <;> [rfl; (simp only []; split <;> [rfl; (split <;> rfl)])]

@[simp] theorem flushMicroTlb_cfg : (s.flushMicroTlb).cfg = s.cfg := rfl
@[simp] theorem flushMicroTlb_gpr : (s.flushMicroTlb).gpr = s.gpr := rfl
@[simp] theorem flushMicroTlb_hi : (s.flushMicroTlb).hi = s.hi := rfl
@[simp] theorem flushMicroTlb_lo : (s.flushMicroTlb).lo = s.lo := rfl
@[simp] theorem flushMicroTlb_pc : (s.flushMicroTlb).pc = s.pc := rfl
@[simp] theorem flushMicroTlb_npc : (s.flushMicroTlb).npc = s.npc := rfl
@[simp] theorem flushMicroTlb_inDelay : (s.flushMicroTlb).inDelay = s.inDelay := rfl
@[simp] theorem flushMicroTlb_cp0 : (s.flushMicroTlb).cp0 = s.cp0 := rfl
@[simp] theorem flushMicroTlb_tlb : (s.flushMicroTlb).tlb = s.tlb := rfl
@[simp] theorem flushMicroTlb_fpr : (s.flushMicroTlb).fpr = s.fpr := rfl
@[simp] theorem flushMicroTlb_fcr31 : (s.flushMicroTlb).fcr31 = s.fcr31 := rfl
@[simp] theorem flushMicroTlb_mem : (s.flushMicroTlb).mem = s.mem := rfl
@[simp] theorem flushMicroTlb_wbuf : (s.flushMicroTlb).wbuf = s.wbuf := rfl
@[simp] theorem flushMicroTlb_dcache : (s.flushMicroTlb).dcache = s.dcache := rfl
@[simp] theorem flushMicroTlb_icache : (s.flushMicroTlb).icache = s.icache := rfl
@[simp] theorem flushMicroTlb_pins : (s.flushMicroTlb).pins = s.pins := rfl
@[simp] theorem flushMicroTlb_pipe : (s.flushMicroTlb).pipe = s.pipe := rfl
@[simp] theorem flushMicroTlb_events : (s.flushMicroTlb).events = s.events := rfl
@[simp] theorem flushMicroTlb_draws : (s.flushMicroTlb).draws = s.draws := rfl

@[simp] theorem tickRandom_cfg : (s.tickRandom).cfg = s.cfg := rfl
@[simp] theorem tickRandom_gpr : (s.tickRandom).gpr = s.gpr := rfl
@[simp] theorem tickRandom_hi : (s.tickRandom).hi = s.hi := rfl
@[simp] theorem tickRandom_lo : (s.tickRandom).lo = s.lo := rfl
@[simp] theorem tickRandom_pc : (s.tickRandom).pc = s.pc := rfl
@[simp] theorem tickRandom_npc : (s.tickRandom).npc = s.npc := rfl
@[simp] theorem tickRandom_inDelay : (s.tickRandom).inDelay = s.inDelay := rfl
@[simp] theorem tickRandom_tlb : (s.tickRandom).tlb = s.tlb := rfl
@[simp] theorem tickRandom_utlb : (s.tickRandom).utlb = s.utlb := rfl
@[simp] theorem tickRandom_fpr : (s.tickRandom).fpr = s.fpr := rfl
@[simp] theorem tickRandom_fcr31 : (s.tickRandom).fcr31 = s.fcr31 := rfl
@[simp] theorem tickRandom_mem : (s.tickRandom).mem = s.mem := rfl
@[simp] theorem tickRandom_wbuf : (s.tickRandom).wbuf = s.wbuf := rfl
@[simp] theorem tickRandom_dcache : (s.tickRandom).dcache = s.dcache := rfl
@[simp] theorem tickRandom_icache : (s.tickRandom).icache = s.icache := rfl
@[simp] theorem tickRandom_pins : (s.tickRandom).pins = s.pins := rfl
@[simp] theorem tickRandom_pipe : (s.tickRandom).pipe = s.pipe := rfl
@[simp] theorem tickRandom_events : (s.tickRandom).events = s.events := rfl
@[simp] theorem tickRandom_draws : (s.tickRandom).draws = s.draws := rfl

@[simp] theorem tickCount_cfg (u : ClockUse): (s.tickCount u).cfg = s.cfg := rfl
@[simp] theorem tickCount_gpr (u : ClockUse): (s.tickCount u).gpr = s.gpr := rfl
@[simp] theorem tickCount_hi (u : ClockUse): (s.tickCount u).hi = s.hi := rfl
@[simp] theorem tickCount_lo (u : ClockUse): (s.tickCount u).lo = s.lo := rfl
@[simp] theorem tickCount_pc (u : ClockUse): (s.tickCount u).pc = s.pc := rfl
@[simp] theorem tickCount_npc (u : ClockUse): (s.tickCount u).npc = s.npc := rfl
@[simp] theorem tickCount_inDelay (u : ClockUse): (s.tickCount u).inDelay = s.inDelay := rfl
@[simp] theorem tickCount_tlb (u : ClockUse): (s.tickCount u).tlb = s.tlb := rfl
@[simp] theorem tickCount_utlb (u : ClockUse): (s.tickCount u).utlb = s.utlb := rfl
@[simp] theorem tickCount_fpr (u : ClockUse): (s.tickCount u).fpr = s.fpr := rfl
@[simp] theorem tickCount_fcr31 (u : ClockUse): (s.tickCount u).fcr31 = s.fcr31 := rfl
@[simp] theorem tickCount_mem (u : ClockUse): (s.tickCount u).mem = s.mem := rfl
@[simp] theorem tickCount_wbuf (u : ClockUse): (s.tickCount u).wbuf = s.wbuf := rfl
@[simp] theorem tickCount_dcache (u : ClockUse): (s.tickCount u).dcache = s.dcache := rfl
@[simp] theorem tickCount_icache (u : ClockUse): (s.tickCount u).icache = s.icache := rfl
@[simp] theorem tickCount_pins (u : ClockUse): (s.tickCount u).pins = s.pins := rfl
@[simp] theorem tickCount_events (u : ClockUse): (s.tickCount u).events = s.events := rfl
@[simp] theorem tickCount_draws (u : ClockUse): (s.tickCount u).draws = s.draws := rfl

@[simp] theorem tick_cfg (n : Reg): (s.tick n).cfg = s.cfg := by unfold State.tick; split <;> first | rfl | (split <;> rfl)
@[simp] theorem tick_gpr (n : Reg): (s.tick n).gpr = s.gpr := by unfold State.tick; split <;> first | rfl | (split <;> rfl)
@[simp] theorem tick_hi (n : Reg): (s.tick n).hi = s.hi := by unfold State.tick; split <;> first | rfl | (split <;> rfl)
@[simp] theorem tick_lo (n : Reg): (s.tick n).lo = s.lo := by unfold State.tick; split <;> first | rfl | (split <;> rfl)
@[simp] theorem tick_pc (n : Reg): (s.tick n).pc = s.pc := by unfold State.tick; split <;> first | rfl | (split <;> rfl)
@[simp] theorem tick_npc (n : Reg): (s.tick n).npc = s.npc := by unfold State.tick; split <;> first | rfl | (split <;> rfl)
@[simp] theorem tick_inDelay (n : Reg): (s.tick n).inDelay = s.inDelay := by unfold State.tick; split <;> first | rfl | (split <;> rfl)
@[simp] theorem tick_tlb (n : Reg): (s.tick n).tlb = s.tlb := by unfold State.tick; split <;> first | rfl | (split <;> rfl)
@[simp] theorem tick_utlb (n : Reg): (s.tick n).utlb = s.utlb := by unfold State.tick; split <;> first | rfl | (split <;> rfl)
@[simp] theorem tick_fpr (n : Reg): (s.tick n).fpr = s.fpr := by unfold State.tick; split <;> first | rfl | (split <;> rfl)
@[simp] theorem tick_fcr31 (n : Reg): (s.tick n).fcr31 = s.fcr31 := by unfold State.tick; split <;> first | rfl | (split <;> rfl)
@[simp] theorem tick_mem (n : Reg): (s.tick n).mem = s.mem := by unfold State.tick; split <;> first | rfl | (split <;> rfl)
@[simp] theorem tick_wbuf (n : Reg): (s.tick n).wbuf = s.wbuf := by unfold State.tick; split <;> first | rfl | (split <;> rfl)
@[simp] theorem tick_dcache (n : Reg): (s.tick n).dcache = s.dcache := by unfold State.tick; split <;> first | rfl | (split <;> rfl)
@[simp] theorem tick_icache (n : Reg): (s.tick n).icache = s.icache := by unfold State.tick; split <;> first | rfl | (split <;> rfl)
@[simp] theorem tick_pins (n : Reg): (s.tick n).pins = s.pins := by unfold State.tick; split <;> first | rfl | (split <;> rfl)
@[simp] theorem tick_events (n : Reg): (s.tick n).events = s.events := by unfold State.tick; split <;> first | rfl | (split <;> rfl)
@[simp] theorem tick_draws (n : Reg): (s.tick n).draws = s.draws := by unfold State.tick; split <;> first | rfl | (split <;> rfl)

@[simp] theorem writeTlb_cfg (i : BitVec 6) (e : TlbEntry): (s.writeTlb i e).cfg = s.cfg := rfl
@[simp] theorem writeTlb_gpr (i : BitVec 6) (e : TlbEntry): (s.writeTlb i e).gpr = s.gpr := rfl
@[simp] theorem writeTlb_hi (i : BitVec 6) (e : TlbEntry): (s.writeTlb i e).hi = s.hi := rfl
@[simp] theorem writeTlb_lo (i : BitVec 6) (e : TlbEntry): (s.writeTlb i e).lo = s.lo := rfl
@[simp] theorem writeTlb_pc (i : BitVec 6) (e : TlbEntry): (s.writeTlb i e).pc = s.pc := rfl
@[simp] theorem writeTlb_npc (i : BitVec 6) (e : TlbEntry): (s.writeTlb i e).npc = s.npc := rfl
@[simp] theorem writeTlb_inDelay (i : BitVec 6) (e : TlbEntry): (s.writeTlb i e).inDelay = s.inDelay := rfl
@[simp] theorem writeTlb_cp0 (i : BitVec 6) (e : TlbEntry): (s.writeTlb i e).cp0 = s.cp0 := rfl
@[simp] theorem writeTlb_utlb (i : BitVec 6) (e : TlbEntry): (s.writeTlb i e).utlb = s.utlb := rfl
@[simp] theorem writeTlb_fpr (i : BitVec 6) (e : TlbEntry): (s.writeTlb i e).fpr = s.fpr := rfl
@[simp] theorem writeTlb_fcr31 (i : BitVec 6) (e : TlbEntry): (s.writeTlb i e).fcr31 = s.fcr31 := rfl
@[simp] theorem writeTlb_mem (i : BitVec 6) (e : TlbEntry): (s.writeTlb i e).mem = s.mem := rfl
@[simp] theorem writeTlb_wbuf (i : BitVec 6) (e : TlbEntry): (s.writeTlb i e).wbuf = s.wbuf := rfl
@[simp] theorem writeTlb_dcache (i : BitVec 6) (e : TlbEntry): (s.writeTlb i e).dcache = s.dcache := rfl
@[simp] theorem writeTlb_icache (i : BitVec 6) (e : TlbEntry): (s.writeTlb i e).icache = s.icache := rfl
@[simp] theorem writeTlb_pins (i : BitVec 6) (e : TlbEntry): (s.writeTlb i e).pins = s.pins := rfl
@[simp] theorem writeTlb_events (i : BitVec 6) (e : TlbEntry): (s.writeTlb i e).events = s.events := rfl
@[simp] theorem writeTlb_draws (i : BitVec 6) (e : TlbEntry): (s.writeTlb i e).draws = s.draws := rfl

@[simp] theorem readTlb_cfg (i : BitVec 6): (s.readTlb i).cfg = s.cfg := rfl
@[simp] theorem readTlb_gpr (i : BitVec 6): (s.readTlb i).gpr = s.gpr := rfl
@[simp] theorem readTlb_hi (i : BitVec 6): (s.readTlb i).hi = s.hi := rfl
@[simp] theorem readTlb_lo (i : BitVec 6): (s.readTlb i).lo = s.lo := rfl
@[simp] theorem readTlb_pc (i : BitVec 6): (s.readTlb i).pc = s.pc := rfl
@[simp] theorem readTlb_npc (i : BitVec 6): (s.readTlb i).npc = s.npc := rfl
@[simp] theorem readTlb_inDelay (i : BitVec 6): (s.readTlb i).inDelay = s.inDelay := rfl
@[simp] theorem readTlb_tlb (i : BitVec 6): (s.readTlb i).tlb = s.tlb := rfl
@[simp] theorem readTlb_fpr (i : BitVec 6): (s.readTlb i).fpr = s.fpr := rfl
@[simp] theorem readTlb_fcr31 (i : BitVec 6): (s.readTlb i).fcr31 = s.fcr31 := rfl
@[simp] theorem readTlb_mem (i : BitVec 6): (s.readTlb i).mem = s.mem := rfl
@[simp] theorem readTlb_wbuf (i : BitVec 6): (s.readTlb i).wbuf = s.wbuf := rfl
@[simp] theorem readTlb_dcache (i : BitVec 6): (s.readTlb i).dcache = s.dcache := rfl
@[simp] theorem readTlb_icache (i : BitVec 6): (s.readTlb i).icache = s.icache := rfl
@[simp] theorem readTlb_pins (i : BitVec 6): (s.readTlb i).pins = s.pins := rfl
@[simp] theorem readTlb_events (i : BitVec 6): (s.readTlb i).events = s.events := rfl
@[simp] theorem readTlb_draws (i : BitVec 6): (s.readTlb i).draws = s.draws := rfl

@[simp] theorem tlbUndefined_cfg : (s.tlbUndefined).cfg = s.cfg := rfl
@[simp] theorem tlbUndefined_gpr : (s.tlbUndefined).gpr = s.gpr := rfl
@[simp] theorem tlbUndefined_hi : (s.tlbUndefined).hi = s.hi := rfl
@[simp] theorem tlbUndefined_lo : (s.tlbUndefined).lo = s.lo := rfl
@[simp] theorem tlbUndefined_pc : (s.tlbUndefined).pc = s.pc := rfl
@[simp] theorem tlbUndefined_npc : (s.tlbUndefined).npc = s.npc := rfl
@[simp] theorem tlbUndefined_inDelay : (s.tlbUndefined).inDelay = s.inDelay := rfl
@[simp] theorem tlbUndefined_tlb : (s.tlbUndefined).tlb = s.tlb := rfl
@[simp] theorem tlbUndefined_utlb : (s.tlbUndefined).utlb = s.utlb := rfl
@[simp] theorem tlbUndefined_fpr : (s.tlbUndefined).fpr = s.fpr := rfl
@[simp] theorem tlbUndefined_fcr31 : (s.tlbUndefined).fcr31 = s.fcr31 := rfl
@[simp] theorem tlbUndefined_mem : (s.tlbUndefined).mem = s.mem := rfl
@[simp] theorem tlbUndefined_wbuf : (s.tlbUndefined).wbuf = s.wbuf := rfl
@[simp] theorem tlbUndefined_dcache : (s.tlbUndefined).dcache = s.dcache := rfl
@[simp] theorem tlbUndefined_icache : (s.tlbUndefined).icache = s.icache := rfl
@[simp] theorem tlbUndefined_pins : (s.tlbUndefined).pins = s.pins := rfl
@[simp] theorem tlbUndefined_pipe : (s.tlbUndefined).pipe = s.pipe := rfl
@[simp] theorem tlbUndefined_events : (s.tlbUndefined).events = s.events := rfl
@[simp] theorem tlbUndefined_draws : (s.tlbUndefined).draws = s.draws := rfl

@[simp] theorem probeTlb_cfg : (s.probeTlb).cfg = s.cfg := by unfold State.probeTlb; simp only []; split <;> [rfl; (split <;> rfl)]
@[simp] theorem probeTlb_gpr : (s.probeTlb).gpr = s.gpr := by unfold State.probeTlb; simp only []; split <;> [rfl; (split <;> rfl)]
@[simp] theorem probeTlb_hi : (s.probeTlb).hi = s.hi := by unfold State.probeTlb; simp only []; split <;> [rfl; (split <;> rfl)]
@[simp] theorem probeTlb_lo : (s.probeTlb).lo = s.lo := by unfold State.probeTlb; simp only []; split <;> [rfl; (split <;> rfl)]
@[simp] theorem probeTlb_pc : (s.probeTlb).pc = s.pc := by unfold State.probeTlb; simp only []; split <;> [rfl; (split <;> rfl)]
@[simp] theorem probeTlb_npc : (s.probeTlb).npc = s.npc := by unfold State.probeTlb; simp only []; split <;> [rfl; (split <;> rfl)]
@[simp] theorem probeTlb_inDelay : (s.probeTlb).inDelay = s.inDelay := by unfold State.probeTlb; simp only []; split <;> [rfl; (split <;> rfl)]
@[simp] theorem probeTlb_tlb : (s.probeTlb).tlb = s.tlb := by unfold State.probeTlb; simp only []; split <;> [rfl; (split <;> rfl)]
@[simp] theorem probeTlb_utlb : (s.probeTlb).utlb = s.utlb := by unfold State.probeTlb; simp only []; split <;> [rfl; (split <;> rfl)]
@[simp] theorem probeTlb_fpr : (s.probeTlb).fpr = s.fpr := by unfold State.probeTlb; simp only []; split <;> [rfl; (split <;> rfl)]
@[simp] theorem probeTlb_fcr31 : (s.probeTlb).fcr31 = s.fcr31 := by unfold State.probeTlb; simp only []; split <;> [rfl; (split <;> rfl)]
@[simp] theorem probeTlb_mem : (s.probeTlb).mem = s.mem := by unfold State.probeTlb; simp only []; split <;> [rfl; (split <;> rfl)]
@[simp] theorem probeTlb_wbuf : (s.probeTlb).wbuf = s.wbuf := by unfold State.probeTlb; simp only []; split <;> [rfl; (split <;> rfl)]
@[simp] theorem probeTlb_dcache : (s.probeTlb).dcache = s.dcache := by unfold State.probeTlb; simp only []; split <;> [rfl; (split <;> rfl)]
@[simp] theorem probeTlb_icache : (s.probeTlb).icache = s.icache := by unfold State.probeTlb; simp only []; split <;> [rfl; (split <;> rfl)]
@[simp] theorem probeTlb_pins : (s.probeTlb).pins = s.pins := by unfold State.probeTlb; simp only []; split <;> [rfl; (split <;> rfl)]
@[simp] theorem probeTlb_events : (s.probeTlb).events = s.events := by unfold State.probeTlb; simp only []; split <;> [rfl; (split <;> rfl)]
@[simp] theorem probeTlb_draws : (s.probeTlb).draws = s.draws := by unfold State.probeTlb; simp only []; split <;> [rfl; (split <;> rfl)]

@[simp] theorem moveToCp0_cfg (n : Reg) (v : Word): (s.moveToCp0 n v).cfg = s.cfg := by unfold State.moveToCp0; simp only []; split <;> simp
@[simp] theorem moveToCp0_gpr (n : Reg) (v : Word): (s.moveToCp0 n v).gpr = s.gpr := by unfold State.moveToCp0; simp only []; split <;> simp
@[simp] theorem moveToCp0_hi (n : Reg) (v : Word): (s.moveToCp0 n v).hi = s.hi := by unfold State.moveToCp0; simp only []; split <;> simp
@[simp] theorem moveToCp0_lo (n : Reg) (v : Word): (s.moveToCp0 n v).lo = s.lo := by unfold State.moveToCp0; simp only []; split <;> simp
@[simp] theorem moveToCp0_pc (n : Reg) (v : Word): (s.moveToCp0 n v).pc = s.pc := by unfold State.moveToCp0; simp only []; split <;> simp
@[simp] theorem moveToCp0_npc (n : Reg) (v : Word): (s.moveToCp0 n v).npc = s.npc := by unfold State.moveToCp0; simp only []; split <;> simp
@[simp] theorem moveToCp0_inDelay (n : Reg) (v : Word): (s.moveToCp0 n v).inDelay = s.inDelay := by unfold State.moveToCp0; simp only []; split <;> simp
@[simp] theorem moveToCp0_tlb (n : Reg) (v : Word): (s.moveToCp0 n v).tlb = s.tlb := by unfold State.moveToCp0; simp only []; split <;> simp
@[simp] theorem moveToCp0_fpr (n : Reg) (v : Word): (s.moveToCp0 n v).fpr = s.fpr := by unfold State.moveToCp0; simp only []; split <;> simp
@[simp] theorem moveToCp0_fcr31 (n : Reg) (v : Word): (s.moveToCp0 n v).fcr31 = s.fcr31 := by unfold State.moveToCp0; simp only []; split <;> simp
@[simp] theorem moveToCp0_mem (n : Reg) (v : Word): (s.moveToCp0 n v).mem = s.mem := by unfold State.moveToCp0; simp only []; split <;> simp
@[simp] theorem moveToCp0_wbuf (n : Reg) (v : Word): (s.moveToCp0 n v).wbuf = s.wbuf := by unfold State.moveToCp0; simp only []; split <;> simp
@[simp] theorem moveToCp0_dcache (n : Reg) (v : Word): (s.moveToCp0 n v).dcache = s.dcache := by unfold State.moveToCp0; simp only []; split <;> simp
@[simp] theorem moveToCp0_icache (n : Reg) (v : Word): (s.moveToCp0 n v).icache = s.icache := by unfold State.moveToCp0; simp only []; split <;> simp
@[simp] theorem moveToCp0_pins (n : Reg) (v : Word): (s.moveToCp0 n v).pins = s.pins := by unfold State.moveToCp0; simp only []; split <;> simp
@[simp] theorem moveToCp0_events (n : Reg) (v : Word): (s.moveToCp0 n v).events = s.events := by unfold State.moveToCp0; simp only []; split <;> simp
@[simp] theorem moveToCp0_draws (n : Reg) (v : Word): (s.moveToCp0 n v).draws = s.draws := by unfold State.moveToCp0; simp only []; split <;> simp

@[simp] theorem useHiLo_cfg : (s.useHiLo).cfg = s.cfg := rfl
@[simp] theorem useHiLo_gpr : (s.useHiLo).gpr = s.gpr := rfl
@[simp] theorem useHiLo_hi : (s.useHiLo).hi = s.hi := rfl
@[simp] theorem useHiLo_lo : (s.useHiLo).lo = s.lo := rfl
@[simp] theorem useHiLo_pc : (s.useHiLo).pc = s.pc := rfl
@[simp] theorem useHiLo_npc : (s.useHiLo).npc = s.npc := rfl
@[simp] theorem useHiLo_inDelay : (s.useHiLo).inDelay = s.inDelay := rfl
@[simp] theorem useHiLo_cp0 : (s.useHiLo).cp0 = s.cp0 := rfl
@[simp] theorem useHiLo_tlb : (s.useHiLo).tlb = s.tlb := rfl
@[simp] theorem useHiLo_utlb : (s.useHiLo).utlb = s.utlb := rfl
@[simp] theorem useHiLo_fpr : (s.useHiLo).fpr = s.fpr := rfl
@[simp] theorem useHiLo_fcr31 : (s.useHiLo).fcr31 = s.fcr31 := rfl
@[simp] theorem useHiLo_mem : (s.useHiLo).mem = s.mem := rfl
@[simp] theorem useHiLo_wbuf : (s.useHiLo).wbuf = s.wbuf := rfl
@[simp] theorem useHiLo_dcache : (s.useHiLo).dcache = s.dcache := rfl
@[simp] theorem useHiLo_icache : (s.useHiLo).icache = s.icache := rfl
@[simp] theorem useHiLo_pins : (s.useHiLo).pins = s.pins := rfl
@[simp] theorem useHiLo_events : (s.useHiLo).events = s.events := rfl
@[simp] theorem useHiLo_draws : (s.useHiLo).draws = s.draws := rfl

@[simp] theorem writeFcr31_cfg (v : Word): (s.writeFcr31 v).cfg = s.cfg := rfl
@[simp] theorem writeFcr31_gpr (v : Word): (s.writeFcr31 v).gpr = s.gpr := rfl
@[simp] theorem writeFcr31_hi (v : Word): (s.writeFcr31 v).hi = s.hi := rfl
@[simp] theorem writeFcr31_lo (v : Word): (s.writeFcr31 v).lo = s.lo := rfl
@[simp] theorem writeFcr31_pc (v : Word): (s.writeFcr31 v).pc = s.pc := rfl
@[simp] theorem writeFcr31_npc (v : Word): (s.writeFcr31 v).npc = s.npc := rfl
@[simp] theorem writeFcr31_inDelay (v : Word): (s.writeFcr31 v).inDelay = s.inDelay := rfl
@[simp] theorem writeFcr31_cp0 (v : Word): (s.writeFcr31 v).cp0 = s.cp0 := rfl
@[simp] theorem writeFcr31_tlb (v : Word): (s.writeFcr31 v).tlb = s.tlb := rfl
@[simp] theorem writeFcr31_utlb (v : Word): (s.writeFcr31 v).utlb = s.utlb := rfl
@[simp] theorem writeFcr31_fpr (v : Word): (s.writeFcr31 v).fpr = s.fpr := rfl
@[simp] theorem writeFcr31_mem (v : Word): (s.writeFcr31 v).mem = s.mem := rfl
@[simp] theorem writeFcr31_wbuf (v : Word): (s.writeFcr31 v).wbuf = s.wbuf := rfl
@[simp] theorem writeFcr31_dcache (v : Word): (s.writeFcr31 v).dcache = s.dcache := rfl
@[simp] theorem writeFcr31_icache (v : Word): (s.writeFcr31 v).icache = s.icache := rfl
@[simp] theorem writeFcr31_pins (v : Word): (s.writeFcr31 v).pins = s.pins := rfl
@[simp] theorem writeFcr31_events (v : Word): (s.writeFcr31 v).events = s.events := rfl
@[simp] theorem writeFcr31_draws (v : Word): (s.writeFcr31 v).draws = s.draws := rfl

@[simp] theorem advance_pc : s.advance.pc = s.npc := rfl
@[simp] theorem advance_npc : s.advance.npc = s.npc + 4 := rfl
@[simp] theorem advance_inDelay : s.advance.inDelay = false := rfl
@[simp] theorem drain_wbuf : s.drain.wbuf = [] := rfl
@[simp] theorem drain_mem : s.drain.mem = s.wbuf.foldl (commitEntry s.cfg) s.mem := rfl
@[simp] theorem rotated_draws : s.rotated.draws = s.draws + 1 := rfl
@[simp] theorem rotated_pipe : s.rotated.pipe = s.pipe.rotate := rfl
@[simp] theorem takeException_pc (e : Exc) : (s.takeException e).pc = s.excVector e := rfl
@[simp] theorem takeException_npc (e : Exc) : (s.takeException e).npc = s.excVector e + 4 := rfl
@[simp] theorem takeException_inDelay (e : Exc) : (s.takeException e).inDelay = false := rfl
@[simp] theorem takeException_cp0 (e : Exc) : (s.takeException e).cp0 = s.excCp0 e := rfl
@[simp] theorem updateSr_sr (f : Word → Word) : (s.updateSr f).cp0.sr = f s.cp0.sr := rfl

end Sys2Proof.Laws
end

