-- ==== Sys2Proof/Laws/Memory.lean ====
section
/-! SUPPORT. Memory, the write buffer and the caches: every operation keeps the canonical forms, and what a read after
a write gives. -/

namespace Sys2Proof.Laws

open Sys2Proof.Machine

/-! ## Memory keeps its canonical form -/

theorem writeByte_wf {c : Config} {m : List Host.Cell} (h : Memory.wf m = true) (a : Word) (v : Byte) :
    Memory.wf (writeByte c m a v) = true := by
  unfold writeByte
  split
  · exact sparseSet_wf h _ _
  all_goals exact h

theorem commitEntry_wf {c : Config} {m : List Host.Cell} (h : Memory.wf m = true) (e : WbEntry) :
    Memory.wf (commitEntry c m e) = true := by
  unfold commitEntry
  have lane : ∀ (m : List Host.Cell) (k : Nat), Memory.wf m = true →
      Memory.wf (if e.be.getLsbD k then writeByte c m (laneAddr c.bigEndian e.addr k) (e.data.extractLsb' (8 * k) 8)
        else m) = true := by
    intro m k hm
    split
    · exact writeByte_wf hm _ _
    · exact hm
  simp only [List.foldl]
  exact lane _ _ (lane _ _ (lane _ _ (lane _ _ h)))

theorem commitAll_wf {c : Config} (es : List WbEntry) {m : List Host.Cell} (h : Memory.wf m = true) :
    Memory.wf (es.foldl (commitEntry c) m) = true := by
  induction es generalizing m with
  | nil => exact h
  | cons e es ih => exact ih (commitEntry_wf h e)

theorem retire_wf {s : State} (h : Memory.wf s.mem = true) : Memory.wf s.retire.mem = true := by
  unfold State.retire
  split
  · exact h
  · exact commitEntry_wf h _

theorem drain_wf {s : State} (h : Memory.wf s.mem = true) : Memory.wf s.drain.mem = true := commitAll_wf _ h

theorem pushStore_wf {s : State} (h : Memory.wf s.mem = true) (e : WbEntry) : Memory.wf (s.pushStore e).mem = true := by
  unfold State.pushStore
  split
  · exact h
  · exact retire_wf h

/-! ## The write buffer -/

theorem retire_wbuf_length (s : State) : s.retire.wbuf.length = s.wbuf.length - 1 := by
  unfold State.retire
  split <;> simp_all

/-- The buffer never holds more than four entries (20_memory.md R130). -/
theorem pushStore_wbuf_length {s : State} (h : s.wbuf.length ≤ 4) (e : WbEntry) :
    (s.pushStore e).wbuf.length ≤ 4 := by
  unfold State.pushStore
  split
  · simp only [List.length_append, List.length_singleton]; omega
  · simp only [List.length_append, List.length_singleton, retire_wbuf_length]; omega

/-- Retiring an entry does not change what memory will hold. -/
theorem retire_drain (s : State) : s.retire.drain.mem = s.drain.mem := by
  unfold State.retire
  split <;> simp_all

/-- A buffered store is performed after all earlier ones. -/
theorem pushStore_drain (s : State) (e : WbEntry) : (s.pushStore e).drain.mem = commitEntry s.cfg s.drain.mem e := by
  unfold State.pushStore
  split
  · simp
  · have h := retire_drain s
    simp only [drain_mem, retire_cfg] at h
    simp [h]

@[simp] theorem drain_drain (s : State) : s.drain.drain = s.drain := rfl

theorem settledByte_def (s : State) (a : Word) : s.settledByte a = sparseGet unlistedByte s.drain.mem a.toNat := rfl

/-- Two states with the same memory to come read the same. -/
theorem settledByte_congr {s t : State} (h : t.drain.mem = s.drain.mem) (a : Word) :
    t.settledByte a = s.settledByte a := by
  simp only [settledByte_def, h]

/-! ## Reading a byte after a bus write -/

theorem writeByte_get {c : Config} {m : List Host.Cell} (h : Memory.wf m = true) (a : Word) (v : Byte) (b : Word) :
    sparseGet unlistedByte (writeByte c m a v) b.toNat
      = if b = a ∧ regionKind c a = .ram then v else sparseGet unlistedByte m b.toNat := by
  unfold writeByte
  split
  · rename_i hk
    rw [sparseGet_sparseSet h]
    by_cases hb : b = a
    · subst hb; simp [hk]
    · simp [hb, BitVec.toNat_inj]
  all_goals (rename_i hk; simp [hk])

/-- One lane of a bus write. -/
def laneWrites (c : Config) (e : WbEntry) (k : Nat) (b : Word) : Prop :=
  e.be.getLsbD k = true ∧ b = laneAddr c.bigEndian e.addr k ∧ regionKind c (laneAddr c.bigEndian e.addr k) = .ram

/-- A byte no enabled lane names is as before. -/
theorem commitEntry_get_of_not {c : Config} {m : List Host.Cell} (h : Memory.wf m = true) (e : WbEntry) (b : Word)
    (hb : ∀ k < 4, ¬ laneWrites c e k b) :
    sparseGet unlistedByte (commitEntry c m e) b.toNat = sparseGet unlistedByte m b.toNat := by
  have lane : ∀ (m : List Host.Cell) (k : Nat), k < 4 → Memory.wf m = true →
      Memory.wf (if e.be.getLsbD k then writeByte c m (laneAddr c.bigEndian e.addr k) (e.data.extractLsb' (8 * k) 8)
        else m) = true ∧
      sparseGet unlistedByte (if e.be.getLsbD k then writeByte c m (laneAddr c.bigEndian e.addr k)
        (e.data.extractLsb' (8 * k) 8) else m) b.toNat = sparseGet unlistedByte m b.toNat := by
    intro m k hk hm
    split
    · rename_i hbe
      refine ⟨writeByte_wf hm _ _, ?_⟩
      rw [writeByte_get hm, if_neg]
      rintro ⟨h1, h2⟩
      exact hb k hk ⟨hbe, h1, h2⟩
    · exact ⟨hm, rfl⟩
  unfold commitEntry
  simp only [List.foldl]
  have h0 := lane m 0 (by decide) h
  have h1 := lane _ 1 (by decide) h0.1
  have h2 := lane _ 2 (by decide) h1.1
  have h3 := lane _ 3 (by decide) h2.1
  exact h3.2.trans (h2.2.trans (h1.2.trans h0.2))

/-! ## The caches keep their canonical form -/

theorem setDLine_wf {s : State} (h : sparseWf DLine.blank s.dcache = true) (a : Word) (l : DLine) :
    sparseWf DLine.blank (s.setDLine a l).dcache = true := sparseSet_wf h _ _

theorem setILine_wf {s : State} (h : sparseWf ILine.blank s.icache = true) (a : Word) (l : ILine) :
    sparseWf ILine.blank (s.setILine a l).icache = true := sparseSet_wf h _ _

theorem fillDBlock_wf {s : State} (h : sparseWf DLine.blank s.dcache = true) (a : Word) (w : Vector Word 4) :
    sparseWf DLine.blank (s.fillDBlock a w).dcache = true := by
  unfold State.fillDBlock
  exact setDLine_wf (setDLine_wf (setDLine_wf (setDLine_wf h _ _) _ _) _ _) _ _

theorem contents_setDLine {s : State} (h : Contents s) (a : Word) (l : DLine) : Contents (s.setDLine a l) :=
  ⟨h.1, setDLine_wf h.2.1 a l, h.2.2⟩

theorem contents_setILine {s : State} (h : Contents s) (a : Word) (l : ILine) : Contents (s.setILine a l) :=
  ⟨h.1, h.2.1, setILine_wf h.2.2 a l⟩

theorem contents_fillDBlock {s : State} (h : Contents s) (a : Word) (w : Vector Word 4) :
    Contents (s.fillDBlock a w) := ⟨h.1, fillDBlock_wf h.2.1 a w, h.2.2⟩

theorem contents_drain {s : State} (h : Contents s) : Contents s.drain := ⟨drain_wf h.1, h.2⟩

theorem contents_retire {s : State} (h : Contents s) : Contents s.retire :=
  ⟨retire_wf h.1, by simpa using h.2⟩

theorem contents_pushStore {s : State} (h : Contents s) (e : WbEntry) : Contents (s.pushStore e) :=
  ⟨pushStore_wf h.1 e, by simpa using h.2⟩

theorem contents_isolatedWrite {s : State} (h : Contents s) (a d : Word) (be : BitVec 4) :
    Contents (s.isolatedWrite a d be) := by
  unfold State.isolatedWrite
  split <;> split
  · exact contents_setILine h _ _
  · exact contents_setILine h _ _
  · exact contents_setDLine h _ _
  · exact contents_setDLine h _ _

theorem contents_cacheStore {s : State} (h : Contents s) (a d : Word) (be : BitVec 4) :
    Contents (s.cacheStore a d be) := by
  unfold State.cacheStore
  split
  · exact contents_setDLine h _ _
  · split
    · exact contents_setDLine h _ _
    · exact h

/-- A store keeps the canonical forms. -/
theorem contents_writeData {s : State} (h : Contents s) (u : Bool) (a d : Word) (be : BitVec 4) :
    Contents (s.writeData u a d be) := by
  unfold State.writeData
  split
  · exact contents_isolatedWrite h _ _ _
  · have hp := contents_pushStore h ⟨wordAddr a, d, be⟩
    simp only []
    split
    · exact hp
    · split
      · exact contents_setILine hp _ _
      · exact contents_cacheStore hp _ _ _

/-! ## What an access can answer -/

/-- A D-cache refill changes the D-cache only. -/
theorem refillD_cases {s s' : State} {fetch block : Bool} {a w : Word}
    (h : s.refillD fetch block a = some (w, s')) :
    (∃ v, s' = s.fillDBlock a v) ∨ s' = s.setDLine a ⟨true, s.dTag a, w⟩ := by
  unfold State.refillD at h
  split at h
  · split at h
    · injection h with h; injection h with h1 h2; exact .inl ⟨_, h2.symm⟩
    · cases h
  · split at h
    · injection h with h; injection h with h1 h2; subst h1; exact .inr h2.symm
    · cases h

/-- All a data read can do: it answers from the machine as it is, with the buffer emptied, with a D-cache refill, with
CM set (isolated) or with an I-cache line lost (swapped); or it is a bus error. -/
theorem readData_cases (s : State) (u : Bool) (a : Word) :
    (∃ w, s.readData u a = .done w s) ∨ (∃ w, s.readData u a = .done w s.drain) ∨
    (∃ w v, s.readData u a = .done w (s.drain.fillDBlock a v)) ∨
    (∃ w l, s.readData u a = .done w (s.drain.setDLine a l)) ∨
    (∃ w b, s.isolated = true ∧ s.readData u a = .done w (s.setCm b)) ∨
    (∃ w l, s.swapped = true ∧ s.readData u a = .done w (s.setILine a l)) ∨
    s.readData u a = .exc .dbe s.drain := by
  unfold State.readData
  split
  · rename_i hi
    unfold State.isolatedRead
    split <;> exact .inr (.inr (.inr (.inr (.inl ⟨_, _, hi, rfl⟩))))
  · split
    · split
      · exact .inr (.inl ⟨_, rfl⟩)
      · simp
    · split
      · rename_i hs
        exact .inr (.inr (.inr (.inr (.inr (.inl ⟨_, _, hs, rfl⟩)))))
      · unfold State.cachedRead
        split
        · exact .inl ⟨_, rfl⟩
        · split
          · rename_i hr
            rcases refillD_cases hr with ⟨v, rfl⟩ | rfl
            · exact .inr (.inr (.inl ⟨_, _, rfl⟩))
            · exact .inr (.inr (.inr (.inl ⟨_, _, rfl⟩)))
          · simp

/-- All a fetch of a word can do. -/
theorem fetchWord_cases (s : State) (u : Bool) (a : Word) :
    (∃ w, s.fetchWord u a = .done w s) ∨ (∃ w, s.fetchWord u a = .done w s.drain) ∨
    (∃ w v, s.fetchWord u a = .done w (s.fillDBlock a v)) ∨ (∃ w l, s.fetchWord u a = .done w (s.setDLine a l)) ∨
    (∃ w l, s.fetchWord u a = .done w (s.setILine a l)) ∨
    s.fetchWord u a = .exc .ibe s.drain ∨ s.fetchWord u a = .exc .ibe s := by
  unfold State.fetchWord
  split
  · split
    · exact .inr (.inl ⟨_, rfl⟩)
    · simp
  · split
    · split
      · exact .inl ⟨_, rfl⟩
      · split
        · rename_i hr
          rcases refillD_cases hr with ⟨v, rfl⟩ | rfl
          · exact .inr (.inr (.inl ⟨_, _, rfl⟩))
          · exact .inr (.inr (.inr (.inl ⟨_, _, rfl⟩)))
        · simp
    · split
      · exact .inl ⟨_, rfl⟩
      · split
        · exact .inr (.inr (.inr (.inr (.inl ⟨_, _, rfl⟩))))
        · simp

end Sys2Proof.Laws
end

