-- ==== Sys2Proof/Laws/Ops.lean ====
section
/-! SUPPORT. What the shared operations answer: the registers, the ends of an instruction, the accesses. -/

namespace Sys2Proof.Laws

open Sys2Proof.Machine

/-! ## Registers -/

@[simp] theorem gprAt_zero (s : State) : s.gprAt 0#5 = 0#32 := rfl

theorem gprAt_setGpr (s : State) (r : Reg) (v : Word) (q : Reg) :
    (s.setGpr r v).gprAt q = if q = r ∧ r ≠ 0 then v else s.gprAt q := by
  unfold State.setGpr State.gprAt
  by_cases hr : r = 0
  · simp [hr]
  · by_cases hq : q = 0
    · subst hq; simp; intro h; exact absurd h.symm hr
    · simp only [hr, hq, if_false, ne_eq, not_false_eq_true, and_true]
      by_cases h : q = r
      · subst h; simp
      · have : r.toNat ≠ q.toNat := fun e => h (BitVec.eq_of_toNat_eq e.symm)
        simp [h, this]

theorem gprAt_setGpr_self (s : State) (r : Reg) (v : Word) :
    (s.setGpr r v).gprAt r = if r = 0 then 0 else v := by
  rw [gprAt_setGpr]
  by_cases h : r = 0
  · subst h; rfl
  · simp only [h, true_and, ne_eq, not_false_eq_true, if_true, if_false]

theorem gprAt_setGpr_of_ne (s : State) {r q : Reg} (h : q ≠ r) (v : Word) :
    (s.setGpr r v).gprAt q = s.gprAt q := by
  rw [gprAt_setGpr, if_neg (fun c => h c.1)]

theorem fprAt_setFpr (s : State) (r : Reg) (v : Word) (q : Reg) :
    (s.setFpr r v).fprAt q = if q = r then v else s.fprAt q := by
  unfold State.setFpr State.fprAt
  by_cases h : q = r
  · subst h; simp
  · have : r.toNat ≠ q.toNat := fun e => h (BitVec.eq_of_toNat_eq e.symm)
    simp [h, this]

/-- A register read in a load delay slot is the old or the loaded value (70_reset_and_hazards.md R590). -/
theorem src_cases (s : State) (r : Reg) :
    s.src r = s.gprAt r ∨ ∃ l, s.pipe.gprShadow = some l ∧ l.reg = r ∧ s.src r = l.old := by
  unfold State.src
  split
  · rename_i l hl
    split
    · rename_i hr
      unfold State.oldOrNew
      split
      · exact .inl rfl
      · split
        · exact .inr ⟨l, hl, hr.1, rfl⟩
        · exact .inl rfl
    · exact .inl rfl
  · exact .inl rfl

@[simp] theorem src_zero (s : State) : s.src 0#5 = 0#32 := by
  unfold State.src
  split
  · rw [if_neg (fun c => c.2 rfl)]; rfl
  · rfl

theorem src_of_none {s : State} (h : s.pipe.gprShadow = none) (r : Reg) : s.src r = s.gprAt r := by
  unfold State.src; rw [h]

theorem oldOrNew_cases (s : State) (u : ChoiceUse) (a b : Word) : s.oldOrNew u a b = a ∨ s.oldOrNew u a b = b := by
  unfold State.oldOrNew
  split
  · exact .inr rfl
  · split
    · exact .inl rfl
    · exact .inr rfl

@[simp] theorem setGpr_zero (s : State) (v : Word) : s.setGpr 0 v = s := rfl

/-! ## The windows -/

theorem recent_nil {s : State} (h : s.pipe.late = []) (r : Reg) (n : Nat) : s.recent r n = [] := by
  unfold State.recent; simp [h]

theorem cp0View_nil {s : State} (h : s.pipe.late = []) (r : Reg) (n : Nat) (v : Word) : s.cp0View r n v = v := by
  unfold State.cp0View State.oneOf; simp [recent_nil h]

theorem cp0ReadBack_nil {s : State} (h : s.pipe.late = []) (r : Reg) (v : Word) : s.cp0ReadBack r v = v := by
  unfold State.cp0ReadBack State.oneOf; simp [h]

theorem atBoundary_nil {s : State} (h : s.pipe.late = []) : s.atBoundary = s := by
  unfold State.atBoundary
  have : s.pipe.late.filter (fun l => decide (l.age ≤ 2)) = s.pipe.late := by rw [h]; rfl
  rw [this]

theorem srBit_nil {s : State} (h : s.pipe.late = []) (n k : Nat) : s.srBit n k = s.cp0.sr.getLsbD k := by
  unfold State.srBit; simp [recent_nil h]

/-! ## The ends of an instruction -/

theorem done_eq (s : State) : done s = .next s.advance := rfl

theorem next_inj {s t : State} (h : (Host.Outcome.next s : Result) = .next t) : s = t := by injection h

theorem branchTo_next {s t : State} {taken : Bool} {a : Word} (h : branchTo s taken a = .next t) :
    s.inDelay = false ∧ t = { s with pc := s.npc, npc := if taken then a else s.npc + 4, inDelay := true } := by
  unfold branchTo at h
  split at h
  · cases h
  · rename_i hd; exact ⟨Bool.eq_false_iff.mpr hd, (next_inj h).symm⟩

theorem branchTo_of_not_inDelay {s : State} (h : s.inDelay = false) (taken : Bool) (a : Word) :
    branchTo s taken a = .next { s with pc := s.npc, npc := if taken then a else s.npc + 4, inDelay := true } := by
  unfold branchTo; simp [h]

theorem withCop_next {z : BitVec 2} {s t : State} {k : Result} (h : withCop z s k = .next t) :
    (s.usable z = true ∧ k = .next t) ∨ (s.usable z = false ∧ t = s.takeException (.cpu z)) := by
  unfold withCop at h
  split at h
  · exact .inl ⟨by assumption, h⟩
  · rename_i hu; exact .inr ⟨Bool.eq_false_iff.mpr hu, (next_inj h).symm⟩

theorem withCop_of_usable {z : BitVec 2} {s : State} (h : s.usable z = true) (k : Result) : withCop z s k = k := by
  unfold withCop; simp [h]

theorem fpOp_next {s t : State} {k : Result} (h : fpOp s k = .next t) :
    (s.usable 1 = true ∧ s.cfg.hasFpa = true ∧ k = .next t) ∨
    (s.usable 1 = true ∧ s.cfg.hasFpa = false ∧ t = s.advance) ∨
    (s.usable 1 = false ∧ t = s.takeException (.cpu 1)) := by
  unfold fpOp at h
  rcases withCop_next h with ⟨hu, hk⟩ | ⟨hu, ht⟩
  · split at hk
    · exact .inl ⟨hu, by assumption, hk⟩
    · rename_i hf; exact .inr (.inl ⟨hu, Bool.eq_false_iff.mpr hf, (next_inj hk).symm⟩)
  · exact .inr (.inr ⟨hu, ht⟩)

theorem writeReg_eq (rd : Reg) (v : Word) (s : State) : writeReg rd v s = .next (s.setGpr rd v).advance := rfl

theorem writeRegOrOverflow_next {o : Bool} {rd : Reg} {v : Word} {s t : State}
    (h : writeRegOrOverflow o rd v s = .next t) :
    (o = false ∧ t = (s.setGpr rd v).advance) ∨ (o = true ∧ t = s.takeException .ov) := by
  unfold writeRegOrOverflow at h
  split at h
  · exact .inr ⟨by assumption, (next_inj h).symm⟩
  · rename_i ho; exact .inl ⟨Bool.eq_false_iff.mpr ho, (next_inj h).symm⟩

/-! ## Writing HI and LO (42_muldiv.md R256) -/

theorem rereadOne_eq (s : State) (hi lo : Option Word) (x : HiLoRead) : ∃ g, s.rereadOne hi lo x = { s with gpr := g } := by
  unfold State.rereadOne State.setGpr
  split
  · split
    · split <;> exact ⟨_, rfl⟩
    · exact ⟨_, rfl⟩
  · exact ⟨_, rfl⟩

theorem rereadOne_gprAt (s : State) (hi lo : Option Word) (x : HiLoRead) (q : Reg) :
    (s.rereadOne hi lo x).gprAt q = s.gprAt q ∨
      (x.rd = q ∧ x.rewritten hi lo = some ((s.rereadOne hi lo x).gprAt q)) := by
  unfold State.rereadOne
  split
  · rename_i v hv
    split
    · rename_i he
      rw [gprAt_setGpr]
      split
      · rename_i hq
        rcases oldOrNew_cases s .hiloRead x.value v with h | h
        · rw [h, hq.1, he]; exact .inl rfl
        · rw [h]; exact .inr ⟨hq.1.symm, hv⟩
      · exact .inl rfl
    · exact .inl rfl
  · exact .inl rfl

/-- A writer of HI or LO changes a register only where an `mfhi` or `mflo` just before has written it, to the new half. -/
theorem reread_gprAt (s : State) (hi lo : Option Word) (q : Reg) :
    (s.reread hi lo).gprAt q = s.gprAt q ∨
      ∃ x ∈ s.pipe.hiloReads, x.rd = q ∧ x.rewritten hi lo = some ((s.reread hi lo).gprAt q) := by
  have fold : ∀ (l : List HiLoRead) (t : State), let u := l.foldl (fun t r => t.rereadOne hi lo r) t
      u.gprAt q = t.gprAt q ∨ ∃ x ∈ l, x.rd = q ∧ x.rewritten hi lo = some (u.gprAt q) := by
    intro l
    induction l with
    | nil => exact fun t => .inl rfl
    | cons x l ih =>
      intro t
      rcases ih (t.rereadOne hi lo x) with h | ⟨y, hy, h⟩
      · rcases rereadOne_gprAt t hi lo x q with h' | ⟨hq, h'⟩
        · exact .inl (h.trans h')
        · refine .inr ⟨x, List.mem_cons_self, hq, ?_⟩
          rw [h', ← h]
          rfl
      · exact .inr ⟨y, List.mem_cons_of_mem _ hy, h⟩
  exact fold s.pipe.hiloReads s

/-! ## Accesses -/

/-- SR.TS is set and the instruction waits (20_memory.md R118). -/
def shutDown (s : State) : State := s.updateSr fun sr => setBit sr 21 true

theorem andThen_next {x : Access} {k : Word → State → Result} {t : State} (h : x.andThen k = .next t) :
    (∃ w s, x = .done w s ∧ k w s = .next t) ∨ (∃ e s, x = .exc e s ∧ t = s.takeException e) ∨
    (∃ s, x = .shutdown s ∧ t = shutDown s) := by
  cases x with
  | done w s => exact .inl ⟨w, s, rfl, h⟩
  | exc e s => exact .inr (.inl ⟨e, s, rfl, (next_inj h).symm⟩)
  | shutdown s => exact .inr (.inr ⟨s, rfl, (next_inj h).symm⟩)
  | dead => cases h

/-- The machine inside a load or store. -/
def atMemory (s : State) : State := { s with pipe := { s.pipe with this := .memory } }

/-- All a load can do. -/
theorem load_cases (s : State) (va : Word) :
    (∃ pa u, s.translate va false = .ok pa u ∧ s.load va = s.readData u pa) ∨
    (∃ e, s.translate va false = .exc e ∧ s.load va = .exc e s) ∨ s.load va = .shutdown s ∨ s.load va = .dead := by
  unfold State.load
  split
  · exact .inl ⟨_, _, by assumption, rfl⟩
  · exact .inr (.inl ⟨_, by assumption, rfl⟩)
  · simp
  · simp

/-- All a store can do. -/
theorem store_cases (s : State) (va d : Word) (be : BitVec 4) :
    (∃ pa u, s.translate va true = .ok pa u ∧ s.store va d be = .done d (s.writeData u pa d be)) ∨
    (∃ e, s.translate va true = .exc e ∧ s.store va d be = .exc e s) ∨ s.store va d be = .shutdown s ∨
    s.store va d be = .dead := by
  unfold State.store
  split
  · exact .inl ⟨_, _, by assumption, rfl⟩
  · exact .inr (.inl ⟨_, by assumption, rfl⟩)
  · simp
  · simp

theorem memoryOp_next {s t : State} {k : State → Result} (h : memoryOp s k = .next t) :
    s.pipe.prev ≠ .tlbp ∧ k (atMemory s) = .next t := by
  unfold memoryOp at h
  split at h
  · cases h
  · exact ⟨by assumption, h⟩

/-- All `MemRead` can answer. -/
theorem readMem_next {va : Word} {size : Nat} {s t : State} {k : Word → State → Result}
    (h : readMem va size s k = .next t) :
    (∃ w s', (atMemory s).load va = .done w s' ∧ k w s' = .next t) ∨
    (∃ e s', (s' = atMemory s ∨ s' = (atMemory s).drain) ∧ t = s'.takeException e) ∨ t = shutDown (atMemory s) := by
  unfold readMem at h
  obtain ⟨-, h⟩ := memoryOp_next h
  split at h
  · exact .inr (.inl ⟨_, _, .inl rfl, (next_inj h).symm⟩)
  · rcases andThen_next h with ⟨w, s', hx, hk⟩ | ⟨e, s', hx, ht⟩ | ⟨s', hx, ht⟩
    · exact .inl ⟨w, s', hx, hk⟩
    · refine .inr (.inl ⟨e, s', ?_, ht⟩)
      rcases load_cases (atMemory s) va with ⟨pa, u, -, hl⟩ | ⟨e', -, hl⟩ | hl | hl
      · rw [hl] at hx
        rcases readData_cases (atMemory s) u pa with ⟨_, h'⟩ | ⟨_, h'⟩ | ⟨_, _, h'⟩ | ⟨_, _, h'⟩ | ⟨_, _, _, h'⟩
          | ⟨_, _, _, h'⟩ | h' <;> rw [h'] at hx <;> cases hx
        exact .inr rfl
      · rw [hl] at hx; cases hx; exact .inl rfl
      · rw [hl] at hx; cases hx
      · rw [hl] at hx; cases hx
    · refine .inr (.inr ?_)
      rcases load_cases (atMemory s) va with ⟨pa, u, -, hl⟩ | ⟨e', -, hl⟩ | hl | hl
      · rw [hl] at hx
        rcases readData_cases (atMemory s) u pa with ⟨_, h'⟩ | ⟨_, h'⟩ | ⟨_, _, h'⟩ | ⟨_, _, h'⟩ | ⟨_, _, _, h'⟩
          | ⟨_, _, _, h'⟩ | h' <;> rw [h'] at hx <;> cases hx
      · rw [hl] at hx; cases hx
      · rw [hl] at hx; cases hx; exact ht
      · rw [hl] at hx; cases hx

/-- All `MemWrite` can answer. -/
theorem writeMem_next {va : Word} {size : Nat} {d : Word} {be : BitVec 4} {s t : State}
    (h : writeMem va size d be s = .next t) :
    (∃ pa u, (atMemory s).translate va true = .ok pa u ∧ t = ((atMemory s).writeData u pa d be).advance) ∨
    (∃ e, t = (atMemory s).takeException e) ∨ t = shutDown (atMemory s) := by
  unfold writeMem at h
  obtain ⟨-, h⟩ := memoryOp_next h
  split at h
  · exact .inr (.inl ⟨_, (next_inj h).symm⟩)
  · rcases store_cases (atMemory s) va d be with ⟨pa, u, ht, hl⟩ | ⟨e', -, hl⟩ | hl | hl <;> rw [hl] at h
    · exact .inl ⟨pa, u, ht, (next_inj h).symm⟩
    · exact .inr (.inl ⟨_, (next_inj h).symm⟩)
    · exact .inr (.inr (next_inj h).symm)
    · cases h

/-! ## The FPA -/

theorem fpTrap_next {s t : State} {m : Word} (h : fpTrap s m = .next t) :
    t = s.takeException .int ∨ t = { s with fcr31 := m }.advance := by
  unfold fpTrap at h
  split at h
  · exact .inl (next_inj h).symm
  · exact .inr (next_inj h).symm

/-- All the completion of an FP operation can do: the interrupt at it, FCR31 alone, or the destination and FCR31. -/
theorem fpComplete_next {word : Word} {a b : BitVec 64} {o : FpOutcome} {s t : State} {k : BitVec 64 → State}
    (h : fpComplete word a b o s k = .next t) :
    (∃ f, f &&& ~~~0x0003F07C = s.fcr31 &&& ~~~0x0003F07C ∧
      (t = ({ s with fcr31 := f } : State).takeException .int ∨ t = ({ s with fcr31 := f } : State).advance)) ∨
    (∃ r exc, t = ({ k r with fcr31 := orFcrFlags (setFcrCause (k r).fcr31 false exc) exc } : State).advance) := by
  have cause : ∀ (f : Word) (u : Bool) (c : BitVec 5),
      setFcrCause f u c &&& ~~~0x0003F07C = f &&& ~~~0x0003F07C := by
    intro f u c
    unfold setFcrCause mergeBits
    apply BitVec.eq_of_getLsbD_eq
    intro i hi
    simp only [BitVec.getLsbD_and, BitVec.getLsbD_or, BitVec.getLsbD_not]
    interval_cases i <;> simp
  have flags : ∀ (f : Word) (c : BitVec 5), orFcrFlags f c &&& ~~~0x0003F07C = f &&& ~~~0x0003F07C := by
    intro f c
    unfold orFcrFlags
    apply BitVec.eq_of_getLsbD_eq
    intro i hi
    simp only [BitVec.getLsbD_and, BitVec.getLsbD_or, BitVec.getLsbD_not]
    interval_cases i <;> simp
  have decline : ∀ {t}, fpDecline s = .next t → ∃ f, f &&& ~~~0x0003F07C = s.fcr31 &&& ~~~0x0003F07C ∧
      (t = ({ s with fcr31 := f } : State).takeException .int ∨ t = ({ s with fcr31 := f } : State).advance) := by
    intro t h
    unfold fpDecline at h
    rcases fpTrap_next h with rfl | rfl
    · exact ⟨_, cause _ _ _, .inl rfl⟩
    · exact ⟨_, cause _ _ _, .inr rfl⟩
  have deliver : ∀ {exc r t}, fpDeliver exc s (k r) = .next t →
      (∃ f, f &&& ~~~0x0003F07C = s.fcr31 &&& ~~~0x0003F07C ∧
        (t = ({ s with fcr31 := f } : State).takeException .int ∨ t = ({ s with fcr31 := f } : State).advance)) ∨
      (∃ r exc, t = ({ k r with fcr31 := orFcrFlags (setFcrCause (k r).fcr31 false exc) exc } : State).advance) := by
    intro exc r t h
    unfold fpDeliver at h
    split at h
    · exact .inr ⟨r, exc, (next_inj h).symm⟩
    · rcases fpTrap_next h with rfl | rfl
      · exact .inl ⟨_, (cause _ _ _).trans (flags _ _), .inl rfl⟩
      · exact .inl ⟨_, (cause _ _ _).trans (flags _ _), .inr rfl⟩
  unfold fpComplete at h
  split at h
  · exact .inl (decline h)
  · exact deliver h
  · split at h
    · exact .inl (decline h)
    · exact deliver h

end Sys2Proof.Laws
end

