-- ==== Sys2Proof/Laws/Access.lean ====
section
/-! SUPPORT. What one data access does to memory as it stands with the write buffer empty: the lanes a store writes, the
word a load is delivered (20_memory.md R120, R121, R127-R133). -/

namespace Sys2Proof.Laws

open Sys2Proof.Machine

/-! ## Addresses inside a word and a line -/

theorem wordAddr_toNat (a : Word) : (wordAddr a).toNat = a.toNat / 4 * 4 := by
  have h : wordAddr a = (a >>> 2) <<< 2 := by
    unfold wordAddr
    apply BitVec.eq_of_getLsbD_eq
    intro i hi
    interval_cases i <;> simp
  rw [h, BitVec.toNat_shiftLeft, BitVec.toNat_ushiftRight, Nat.shiftLeft_eq, Nat.shiftRight_eq_div_pow]
  have := a.isLt
  omega

theorem blockAddr_toNat (a : Word) : (blockAddr a).toNat = a.toNat / 16 * 16 := by
  have h : blockAddr a = (a >>> 4) <<< 4 := by
    unfold blockAddr
    apply BitVec.eq_of_getLsbD_eq
    intro i hi
    interval_cases i <;> simp
  rw [h, BitVec.toNat_shiftLeft, BitVec.toNat_ushiftRight, Nat.shiftLeft_eq, Nat.shiftRight_eq_div_pow]
  have := a.isLt
  omega

/-- The lanes of one word lie at different addresses. -/
theorem laneAddr_inj {be : Bool} {w : Word} {j k : Nat} (hj : j < 4) (hk : k < 4)
    (h : laneAddr be (wordAddr w) j = laneAddr be (wordAddr w) k) : j = k := by
  unfold laneAddr at h
  have h := BitVec.add_right_inj (wordAddr w) |>.mp h
  cases be <;> interval_cases j <;> interval_cases k <;> first | rfl | (revert h; decide)

theorem wordAddr_laneAddr (be : Bool) (w : Word) {k : Nat} (hk : k < 4) :
    wordAddr (laneAddr be (wordAddr w) k) = wordAddr w := by
  apply BitVec.eq_of_toNat_eq
  rw [wordAddr_toNat, wordAddr_toNat]
  have h : (laneAddr be (wordAddr w) k).toNat = w.toNat / 4 * 4 + (if be then 3 - k else k) := by
    unfold laneAddr
    have := w.isLt
    cases be <;> simp [BitVec.toNat_add, wordAddr_toNat] <;> omega
  rw [h]
  split <;> omega

/-! ## Stores -/

/-- An enabled lane over RAM holds its byte after a bus write. -/
theorem commitEntry_get_lane {c : Config} {m : List Host.Cell} (h : Memory.wf m = true) (a data : Word) (be : BitVec 4)
    {k : Nat} (hk : k < 4) (hbe : be.getLsbD k = true)
    (hr : regionKind c (laneAddr c.bigEndian (wordAddr a) k) = .ram) :
    sparseGet unlistedByte (commitEntry c m ⟨wordAddr a, data, be⟩) (laneAddr c.bigEndian (wordAddr a) k).toNat
      = data.extractLsb' (8 * k) 8 := by
  have lane : ∀ (m : List Host.Cell) (j : Nat), j < 4 → Memory.wf m = true →
      let m' := if be.getLsbD j then writeByte c m (laneAddr c.bigEndian (wordAddr a) j) (data.extractLsb' (8 * j) 8)
        else m
      Memory.wf m' = true ∧
      (j = k → sparseGet unlistedByte m' (laneAddr c.bigEndian (wordAddr a) k).toNat = data.extractLsb' (8 * k) 8) ∧
      (j ≠ k → sparseGet unlistedByte m' (laneAddr c.bigEndian (wordAddr a) k).toNat
        = sparseGet unlistedByte m (laneAddr c.bigEndian (wordAddr a) k).toNat) := by
    intro m j hj hm
    dsimp only
    refine ⟨?_, ?_, ?_⟩
    · split
      · exact writeByte_wf hm _ _
      · exact hm
    · rintro rfl
      rw [if_pos hbe, writeByte_get hm, if_pos ⟨rfl, hr⟩]
    · intro hne
      split
      · rw [writeByte_get hm, if_neg]
        rintro ⟨h1, -⟩
        exact hne (laneAddr_inj hj hk h1.symm)
      · rfl
  unfold commitEntry
  simp only [List.foldl]
  have h0 := lane m 0 (by decide) h
  have h1 := lane _ 1 (by decide) h0.1
  have h2 := lane _ 2 (by decide) h1.1
  have h3 := lane _ 3 (by decide) h2.1
  interval_cases k
  · exact (h3.2.2 (by decide)).trans ((h2.2.2 (by decide)).trans ((h1.2.2 (by decide)).trans (h0.2.1 rfl)))
  · exact (h3.2.2 (by decide)).trans ((h2.2.2 (by decide)).trans (h1.2.1 rfl))
  · exact (h3.2.2 (by decide)).trans (h2.2.1 rfl)
  · exact h3.2.1 rfl

/-- A store that neither isolates nor swaps the caches changes memory, the buffer and the D-cache only, and memory to come
by exactly its entry. -/
theorem writeData_normal {s : State} (h : NormalCaches s) (u : Bool) (a d : Word) (be : BitVec 4) :
    let t := s.writeData u a d be
    t = { s with mem := t.mem, wbuf := t.wbuf, dcache := t.dcache } ∧
      t.drain.mem = commitEntry s.cfg s.drain.mem ⟨wordAddr a, d, be⟩ := by
  obtain ⟨m, w, hp⟩ : ∃ m w, s.pushStore ⟨wordAddr a, d, be⟩ = { s with mem := m, wbuf := w } := by
    unfold State.pushStore
    split
    · exact ⟨_, _, rfl⟩
    · unfold State.retire
      split <;> exact ⟨_, _, rfl⟩
  have hd := pushStore_drain s ⟨wordAddr a, d, be⟩
  rw [hp] at hd
  dsimp only
  unfold State.writeData
  rw [h.1, hp]
  simp only [h.2, Bool.false_eq_true, if_false]
  split
  · exact ⟨rfl, hd⟩
  · unfold State.cacheStore
    split
    · exact ⟨rfl, hd⟩
    · split
      · exact ⟨rfl, hd⟩
      · exact ⟨rfl, hd⟩

/-- What a store does when its address translates: exactly its lanes (43_loadstore.md R262). -/
theorem writeMem_stores {s : State} {va pa : Word} {u : Bool} (hc : Contents s) (hp : MayAccess s)
    (hn : NormalCaches s) (ht : s.translate va true = .ok pa u) {size : Nat} (ha : misaligned va size = false)
    (d : Word) (be : BitVec 4) : StoresLanes s (writeMem va size d be s) pa d be := by
  have ht' : (atMemory s).translate va true = .ok pa u := ht
  have hs : writeMem va size d be s = .next ((atMemory s).writeData u pa d be).advance := by
    unfold writeMem memoryOp
    rw [if_neg hp]
    show (if misaligned va size = true then _ else _) = _
    rw [ha]
    show ((atMemory s).store va d be).andThen _ = _
    unfold State.store
    rw [ht']
    rfl
  obtain ⟨hf, hm⟩ := writeData_normal (s := atMemory s) hn u pa d be
  refine ⟨_, hs, ?_, ?_, ?_⟩
  · unfold StoreFrame
    conv_lhs => rw [hf]
    rfl
  · intro k hk hbe hr
    show sparseGet unlistedByte ((atMemory s).writeData u pa d be).advance.drain.mem _ = _
    have : ((atMemory s).writeData u pa d be).advance.drain.mem = ((atMemory s).writeData u pa d be).drain.mem := rfl
    rw [this, hm]
    exact commitEntry_get_lane (drain_wf hc.1) pa d be hk hbe hr
  · intro a hna
    show sparseGet unlistedByte ((atMemory s).writeData u pa d be).advance.drain.mem _ = _
    have : ((atMemory s).writeData u pa d be).advance.drain.mem = ((atMemory s).writeData u pa d be).drain.mem := rfl
    rw [this, hm]
    refine commitEntry_get_of_not (drain_wf hc.1) _ a ?_
    rintro k hk ⟨h1, h2, -⟩
    exact hna ⟨k, hk, h1, h2⟩

/-! ## Loads -/

theorem memWord_congr (s : State) {a b : Word} (h : wordAddr a = wordAddr b) : s.memWord a = s.memWord b := by
  unfold State.memWord; rw [h]

theorem blockAddr_add (a : Word) {k : Nat} (hk : k < 4) :
    (blockAddr a + BitVec.ofNat 32 (4 * k)).toNat = a.toNat / 16 * 16 + 4 * k := by
  have := a.isLt
  rw [BitVec.toNat_add, blockAddr_toNat, BitVec.toNat_ofNat]
  omega

theorem blockAddr_of_line (a : Word) {k : Nat} (hk : k < 4) :
    blockAddr (blockAddr a + BitVec.ofNat 32 (4 * k)) = blockAddr a := by
  apply BitVec.eq_of_toNat_eq
  rw [blockAddr_toNat, blockAddr_add a hk, blockAddr_toNat]
  omega

theorem wordAddr_of_line (a : Word) : wordAddr (blockAddr a + BitVec.ofNat 32 (4 * lineWord a)) = wordAddr a := by
  apply BitVec.eq_of_toNat_eq
  rw [wordAddr_toNat, blockAddr_add a (lineWord_lt a), wordAddr_toNat]
  unfold lineWord
  omega

/-- The board's map is by word (R108). -/
theorem regionOf_congr (c : Config) {a b : Word} (h : wordAddr a = wordAddr b) : regionOf c a = regionOf c b := by
  unfold regionOf; rw [h]

/-- A bus read answers every address of a word alike, the one whose low bits are inverted among them (R103). -/
theorem busRead_congr (s : State) (fetch : Bool) {a b : Word} (h : wordAddr a = wordAddr b) :
    s.busRead fetch a = s.busRead fetch b := by
  unfold State.busRead busError regionKind
  rw [regionOf_congr s.cfg h, memWord_congr s h, h]

/-- A bus read of memory delivers memory's word. -/
theorem busRead_memory {s : State} {a : Word} (fetch : Bool) (h : regionKind s.cfg a = .ram ∨ regionKind s.cfg a = .rom)
    (he : busError s.cfg fetch a = false) : s.busRead fetch a = some (s.memWord a) := by
  unfold State.busRead
  rw [he]
  rcases h with h | h <;> rw [h] <;> rfl

/-- A burst of a line of memory delivers its four words, the addressed one among them. -/
theorem busBurst_memory {s : State} {a : Word} (fetch : Bool) (h : LineIsMemory s a) :
    ∃ w, s.busBurst fetch a = some w ∧
      ∀ b, blockAddr b = blockAddr a → w[lineWord b]'(lineWord_lt b) = s.memWord b := by
  have r : ∀ k, k < 4 → s.busRead fetch (blockAddr a + BitVec.ofNat 32 (4 * k))
      = some (s.memWord (blockAddr a + BitVec.ofNat 32 (4 * k))) := fun k hk =>
    busRead_memory fetch (h _ (blockAddr_of_line a hk)).1 ((h _ (blockAddr_of_line a hk)).2 fetch)
  have r0 := r 0 (by decide)
  have r1 := r 1 (by decide)
  have r2 := r 2 (by decide)
  have r3 := r 3 (by decide)
  simp only [Nat.mul_zero, BitVec.add_zero, Nat.mul_one] at r0 r1 r2 r3
  have e : s.busBurst fetch a = some #v[s.memWord (blockAddr a), s.memWord (blockAddr a + 4),
      s.memWord (blockAddr a + 8), s.memWord (blockAddr a + 12)] := by
    unfold State.busBurst
    rw [r0]
    simp only [BitVec.ofNat_eq_ofNat]
    rw [r1]
    simp only [show (4 * 2 : Nat) = 8 from rfl, show (4 * 3 : Nat) = 12 from rfl] at r2 r3
    rw [r2, r3]
  refine ⟨_, e, fun b hb => ?_⟩
  have hw := memWord_congr s (wordAddr_of_line b)
  rw [← hw, hb]
  have hl := lineWord_lt b
  rcases (by omega : lineWord b = 0 ∨ lineWord b = 1 ∨ lineWord b = 2 ∨ lineWord b = 3) with h | h | h | h <;> simp [h]

/-- A burst into the D-cache changes nothing else. -/
theorem fillDBlock_eq (s : State) (a : Word) (w : Vector Word 4) :
    ∃ d, s.fillDBlock a w = { s with dcache := d } := ⟨_, rfl⟩

/-- Emptying the write buffer and changing the D-cache changes no settled byte. -/
theorem sameMemory_drain_dcache (s : State) (d : List (Nat × DLine)) : SameMemory s { s.drain with dcache := d } :=
  fun _ => rfl

/-- The D-cache holds a multiple of four words. -/
theorem dBytes_block (s : State) : ∃ n, 0 < n ∧ s.dBytes = 16 * n := by
  unfold State.dBytes
  split
  · exact ⟨32, by decide, rfl⟩
  · exact ⟨64, by decide, rfl⟩
  · exact ⟨128, by decide, rfl⟩
  all_goals (split <;> [exact ⟨512, by decide, rfl⟩; exact ⟨256, by decide, rfl⟩])

theorem setDLine_dLine {s : State} (h : sparseWf DLine.blank s.dcache = true) (a : Word) (l : DLine) (b : Word) :
    (s.setDLine a l).dLine b = if s.dIndex b = s.dIndex a then l else s.dLine b := by
  show sparseGet DLine.blank (sparseSet DLine.blank s.dcache (s.dIndex a) l) (s.dIndex b) = _
  rw [sparseGet_sparseSet h]
  rfl

/-- Two addresses in the same word share line and tag. -/
theorem dIndex_of_word {s : State} {a b : Word} (h : wordAddr a = wordAddr b) :
    s.dIndex a = s.dIndex b ∧ s.dTag a = s.dTag b := by
  obtain ⟨n, hn, hb⟩ := dBytes_block s
  have h : a.toNat / 4 * 4 = b.toNat / 4 * 4 := by rw [← wordAddr_toNat, ← wordAddr_toNat, h]
  unfold State.dIndex State.dTag
  rw [hb, show 16 * n = 4 * (4 * n) by omega]
  constructor
  · rw [Nat.mod_mul_right_div_self, Nat.mod_mul_right_div_self]
    congr 1
    omega
  · rw [← Nat.div_div_eq_div_mul a.toNat, ← Nat.div_div_eq_div_mul b.toNat]
    congr 1
    omega

/-- The four words of a block are four lines with one tag. -/
theorem dIndex_of_block (s : State) (a : Word) {k : Nat} (hk : k < 4) :
    s.dIndex (blockAddr a + BitVec.ofNat 32 (4 * k)) = s.dIndex (blockAddr a) + k ∧
      s.dTag (blockAddr a + BitVec.ofNat 32 (4 * k)) = s.dTag (blockAddr a) := by
  obtain ⟨n, hn, hb⟩ := dBytes_block s
  have e0 : (blockAddr a).toNat = 16 * (a.toNat / 16) := by rw [blockAddr_toNat]; omega
  have ek : (blockAddr a + BitVec.ofNat 32 (4 * k)).toNat = 16 * (a.toNat / 16) + 4 * k := by
    rw [blockAddr_add a hk]; omega
  unfold State.dIndex State.dTag
  rw [e0, ek, hb]
  constructor
  · have h1 : (16 * (a.toNat / 16) + 4 * k) % (16 * n) = 16 * (a.toNat / 16 % n) + 4 * k := by
      rw [show 16 * (a.toNat / 16) + 4 * k = 4 * k + 16 * (a.toNat / 16) by omega, Nat.add_mod, Nat.mul_mod_mul_left,
        Nat.mod_eq_of_lt (by omega : 4 * k < 16 * n)]
      have := Nat.mod_lt (a.toNat / 16) hn
      rw [Nat.mod_eq_of_lt (by omega)]
      omega
    rw [h1, Nat.mul_mod_mul_left]
    omega
  · rw [← Nat.div_div_eq_div_mul, ← Nat.div_div_eq_div_mul]
    congr 1
    omega

/-- An address is in the word of its block that its place names. -/
theorem word_of_block {a b : Word} (h : blockAddr a = blockAddr b) :
    wordAddr (blockAddr b + BitVec.ofNat 32 (4 * lineWord a)) = wordAddr a := by
  rw [← h]; exact wordAddr_of_line a

/-- After a block refill each line of the block holds its word, every other line is as before. -/
theorem fillDBlock_dLine {s : State} (h : sparseWf DLine.blank s.dcache = true) (a : Word) (w : Vector Word 4) :
    (∀ b, blockAddr b = blockAddr a →
      (s.fillDBlock a w).dLine b = ⟨true, s.dTag b, w[lineWord b]'(lineWord_lt b)⟩) ∧
    ∀ b, (∀ c, blockAddr c = blockAddr a → s.dIndex c ≠ s.dIndex b) → (s.fillDBlock a w).dLine b = s.dLine b := by
  have i := fun k hk => (dIndex_of_block s a (k := k) hk).1
  have i1 : s.dIndex (blockAddr a + 4) = s.dIndex (blockAddr a) + 1 := i 1 (by decide)
  have i2 : s.dIndex (blockAddr a + 8) = s.dIndex (blockAddr a) + 2 := i 2 (by decide)
  have i3 : s.dIndex (blockAddr a + 12) = s.dIndex (blockAddr a) + 3 := i 3 (by decide)
  have hw0 := setDLine_wf h (blockAddr a) ⟨true, s.dTag (blockAddr a), w[0]⟩
  have hw1 := setDLine_wf hw0 (blockAddr a + 4) ⟨true, s.dTag (blockAddr a), w[1]⟩
  have hw2 := setDLine_wf hw1 (blockAddr a + 8) ⟨true, s.dTag (blockAddr a), w[2]⟩
  have e : ∀ b, (s.fillDBlock a w).dLine b =
      if s.dIndex b = s.dIndex (blockAddr a) + 3 then ⟨true, s.dTag (blockAddr a), w[3]⟩
      else if s.dIndex b = s.dIndex (blockAddr a) + 2 then ⟨true, s.dTag (blockAddr a), w[2]⟩
      else if s.dIndex b = s.dIndex (blockAddr a) + 1 then ⟨true, s.dTag (blockAddr a), w[1]⟩
      else if s.dIndex b = s.dIndex (blockAddr a) then ⟨true, s.dTag (blockAddr a), w[0]⟩ else s.dLine b := by
    intro b
    have s3 := setDLine_dLine hw2 (blockAddr a + 12) ⟨true, s.dTag (blockAddr a), w[3]⟩ b
    have s2 := setDLine_dLine hw1 (blockAddr a + 8) ⟨true, s.dTag (blockAddr a), w[2]⟩ b
    have s1 := setDLine_dLine hw0 (blockAddr a + 4) ⟨true, s.dTag (blockAddr a), w[1]⟩ b
    have s0 := setDLine_dLine h (blockAddr a) ⟨true, s.dTag (blockAddr a), w[0]⟩ b
    rw [← i1, ← i2, ← i3]
    refine s3.trans ?_
    show (if s.dIndex b = s.dIndex (blockAddr a + 12) then _ else _) = _
    rw [s2]
    show (if _ then _ else if s.dIndex b = s.dIndex (blockAddr a + 8) then _ else _) = _
    rw [s1]
    show (if _ then _ else if _ then _ else if s.dIndex b = s.dIndex (blockAddr a + 4) then _ else _) = _
    rw [s0]
  constructor
  · intro b hb
    obtain ⟨hi, ht⟩ := dIndex_of_word (s := s) (word_of_block hb)
    obtain ⟨hi', ht'⟩ := dIndex_of_block s a (lineWord_lt b)
    rw [e b, ← hi, hi', ← ht, ht']
    have hl := lineWord_lt b
    rcases (by omega : lineWord b = 0 ∨ lineWord b = 1 ∨ lineWord b = 2 ∨ lineWord b = 3) with h | h | h | h <;> simp [h]
  · intro b hb
    have n0 := hb (blockAddr a) (by simpa using blockAddr_of_line a (k := 0) (by decide))
    have n1 := hb (blockAddr a + 4) (blockAddr_of_line a (k := 1) (by decide))
    have n2 := hb (blockAddr a + 8) (blockAddr_of_line a (k := 2) (by decide))
    have n3 := hb (blockAddr a + 12) (blockAddr_of_line a (k := 3) (by decide))
    rw [i1] at n1; rw [i2] at n2; rw [i3] at n3
    rw [e b, if_neg (Ne.symm n3), if_neg (Ne.symm n2), if_neg (Ne.symm n1), if_neg (Ne.symm n0)]

/-- A block refill of memory: the word, and the four lines of the block (R139). -/
theorem refillD_block {s : State} {pa : Word} (hm : LineIsMemory s pa) :
    ∃ d, s.drain.refillD false true pa = some (s.settledWord pa, { s.drain with dcache := d }) ∧
      (sparseWf DLine.blank s.dcache = true →
        (∀ a, blockAddr a = blockAddr pa →
          ({ s.drain with dcache := d } : State).dLine a = ⟨true, s.dTag a, s.settledWord a⟩) ∧
        ∀ a, (∀ b, blockAddr b = blockAddr pa → s.dIndex b ≠ s.dIndex a) →
          ({ s.drain with dcache := d } : State).dLine a = s.dLine a) := by
  obtain ⟨w, hw, hw'⟩ := busBurst_memory (s := s.drain) false (a := pa) hm
  obtain ⟨d, hd⟩ := fillDBlock_eq s.drain pa w
  refine ⟨d, ?_, fun hwf => ?_⟩
  · unfold State.refillD
    rw [if_pos rfl, hw, ← hd]
    exact congrArg some (Prod.ext (hw' pa rfl) rfl)
  · obtain ⟨h1, h2⟩ := fillDBlock_dLine (s := s.drain) hwf pa w
    rw [hd] at h1 h2
    exact ⟨fun a ha => (h1 a ha).trans (congrArg (DLine.mk true (s.dTag a)) (hw' a ha)), h2⟩

/-- A refill of one word of memory, and its line (R127). -/
theorem refillD_word {s : State} {pa : Word} (hm : LineIsMemory s pa) :
    ∃ d, s.drain.refillD false false pa = some (s.settledWord pa, { s.drain with dcache := d }) ∧
      (sparseWf DLine.blank s.dcache = true →
        (∀ a, wordAddr a = wordAddr pa →
          ({ s.drain with dcache := d } : State).dLine a = ⟨true, s.dTag a, s.settledWord a⟩) ∧
        ∀ a, s.dIndex pa ≠ s.dIndex a → ({ s.drain with dcache := d } : State).dLine a = s.dLine a) := by
  have hb : s.drain.busRead false pa = some (s.settledWord pa) := busRead_memory false (hm pa rfl).1 ((hm pa rfl).2 false)
  refine ⟨(s.drain.setDLine pa ⟨true, s.dTag pa, s.settledWord pa⟩).dcache, ?_, fun hwf => ?_⟩
  · unfold State.refillD
    rw [if_neg (by decide), hb]
    rfl
  · have e : ∀ a, _ = _ := fun a => setDLine_dLine (s := s.drain) hwf pa ⟨true, s.dTag pa, s.settledWord pa⟩ a
    constructor
    · intro a ha
      obtain ⟨hi, htg⟩ := dIndex_of_word (s := s) ha
      refine (e a).trans ?_
      rw [if_pos (show s.drain.dIndex a = s.drain.dIndex pa from hi), htg,
        show s.settledWord a = s.settledWord pa from memWord_congr s.drain ha]
    · intro a ha
      refine (e a).trans ?_
      rw [if_neg (show ¬ s.drain.dIndex a = s.drain.dIndex pa from Ne.symm ha)]
      rfl

/-- The refill of a D-cache miss on memory (R127, R139). -/
theorem refillD_memory {s : State} {pa : Word} (hm : LineIsMemory s pa) :
    ∃ d, s.drain.refillD false s.blockRefill pa = some (s.settledWord pa, { s.drain with dcache := d }) ∧
      (sparseWf DLine.blank s.dcache = true →
        (∀ a, InRefill s pa a → ({ s.drain with dcache := d } : State).dLine a = ⟨true, s.dTag a, s.settledWord a⟩) ∧
        ∀ a, (∀ b, InRefill s pa b → s.dIndex b ≠ s.dIndex a) →
          ({ s.drain with dcache := d } : State).dLine a = s.dLine a) := by
  unfold InRefill
  cases s.blockRefill with
  | true => simpa only [if_true] using refillD_block hm
  | false =>
    obtain ⟨d, h, k⟩ := refillD_word hm
    refine ⟨d, h, fun hwf => ⟨fun a ha => (k hwf).1 a (by simpa using ha), fun a ha => (k hwf).2 a (ha pa (by simp))⟩⟩

/-- What a load is delivered when its address translates to memory, and what else it does (43_loadstore.md R261). -/
theorem load_delivers {s : State} {va pa : Word} {u : Bool} (hn : NormalCaches s)
    (ht : s.translate va false = .ok pa u) (hm : LineIsMemory s pa) :
    ∃ t, s.load va = .done (s.deliveredWord u pa) t ∧ SameMemory s t ∧
      t = { s with mem := t.mem, wbuf := t.wbuf, dcache := t.dcache } ∧ ReadLeaves s t u pa := by
  have hl : s.load va = s.readData u pa := by unfold State.load; rw [ht]
  rw [hl]
  unfold State.readData
  rw [hn.1, hn.2]
  simp only [Bool.false_eq_true, if_false]
  cases u with
  | true =>
    rw [if_pos rfl, busRead_memory (s := s.drain) false (hm pa rfl).1 ((hm pa rfl).2 false)]
    refine ⟨s.drain, ?_, fun a => rfl, rfl, ?_⟩
    · simp [State.deliveredWord, State.settledWord]
    · exact ⟨fun h => by simp [State.servedByCache] at h, fun _ => rfl, fun _ => rfl, fun h => by cases h⟩
  | false =>
    rw [if_neg (by decide)]
    unfold State.cachedRead
    by_cases hh : (s.dHit pa && !s.forceMiss) = true
    · rw [if_pos hh]
      refine ⟨s, ?_, fun a => rfl, rfl, fun _ => ⟨rfl, rfl, rfl⟩, fun h => ?_, fun h => (by cases h), fun _ h => ?_⟩
      · simp only [Bool.and_eq_true, Bool.not_eq_true'] at hh
        simp [State.deliveredWord, hh.1, hh.2]
      all_goals (simp only [State.servedByCache, Bool.not_false, Bool.true_and] at h; rw [hh] at h; cases h)
    · rw [if_neg hh]
      obtain ⟨d, hd, h5⟩ := refillD_memory hm
      rw [hd]
      refine ⟨{ s.drain with dcache := d }, ?_, sameMemory_drain_dcache s d, rfl, fun h => ?_, fun _ => rfl,
        fun h => (by cases h), fun _ _ => h5⟩
      · unfold State.deliveredWord
        rw [if_neg (by simpa using hh)]
      · simp only [State.servedByCache, Bool.not_false, Bool.true_and] at h
        exact absurd h hh

/-- A load into a general register (R263). -/
theorem loadReg_loads {s : State} {va pa : Word} {u : Bool} (hp : MayAccess s) (hn : NormalCaches s)
    (ht : s.translate va false = .ok pa u) (hm : LineIsMemory s pa) {size : Nat} (ha : misaligned va size = false)
    (rt : Reg) (f : Word → Word) : LoadsGpr s (loadReg rt va size f s) rt (f (s.deliveredWord u pa)) u pa := by
  obtain ⟨t, hl, hs, hf, hr⟩ := load_delivers (s := atMemory s) (va := va) (pa := pa) (u := u) hn ht hm
  have e : loadReg rt va size f s = done (t.setGprLate rt (f (s.deliveredWord u pa)) true) := by
    unfold loadReg readMem memoryOp
    rw [if_neg hp]
    show (if misaligned va size = true then _ else _) = _
    rw [ha]
    show ((atMemory s).load va).andThen _ = _
    rw [hl]
    rfl
  have hg : ∀ q, t.gprAt q = s.gprAt q := fun q => by rw [hf]; rfl
  refine ⟨_, e, ?_, ?_, ⟨?_, ?_⟩, ?_⟩
  · show (t.setGprLate rt _ true).gprAt rt = _
    unfold State.setGprLate
    split
    · rename_i h; subst h; rfl
    · rename_i h
      show (t.setGpr rt _).gprAt rt = _
      rw [gprAt_setGpr_self, if_neg h]
  · intro q hq
    show (t.setGprLate rt _ true).gprAt q = _
    rw [← hg q]
    unfold State.setGprLate
    split
    · rfl
    · show (t.setGpr rt _).gprAt q = _
      exact gprAt_setGpr_of_ne _ hq _
  · intro a
    rw [← show t.settledByte a = s.settledByte a from hs a]
    unfold State.setGprLate State.setGpr
    split <;> rfl
  · unfold State.setGprLate State.setGpr
    by_cases h : rt = 0
    · simp only [h, if_true]
      rw [hf]
      rfl
    · simp only [h, if_false]
      rw [hg rt, hf]
      rfl
  · unfold State.setGprLate State.setGpr
    by_cases h : rt = 0
    · simp only [h, if_true]
      exact hr
    · simp only [h, if_false]
      exact hr

end Sys2Proof.Laws
end

