-- ==== Sys2Proof/Laws/Begin.lean ====
section
/-! SUPPORT. The start of an instruction: what `State.begin` can change (42_muldiv.md R256, 60_exceptions.md R505). -/

namespace Sys2Proof.Laws

open Sys2Proof.Machine

/-! ## The reads of HI and LO -/

theorem ahead_rd (x : HiLoRead) (s u : State) (n : Nat) : (x.ahead s u n).rd = x.rd ∧ (x.ahead s u n).isHi = x.isHi := by
  unfold HiLoRead.ahead; split <;> exact ⟨rfl, rfl⟩

/-- A settled read stays the read of the same half into the same register. -/
theorem settleRead_rd (s : State) (x : HiLoRead) : (s.settleRead x).rd = x.rd ∧ (s.settleRead x).isHi = x.isHi := by
  unfold State.settleRead
  split
  · exact ⟨(ahead_rd _ _ _ _).1.trans (ahead_rd _ _ _ _).1, (ahead_rd _ _ _ _).2.trans (ahead_rd _ _ _ _).2⟩
  · exact ⟨rfl, rfl⟩

/-- What a settled read delivers: what was read, or the half after the next instruction, or after the one behind it. -/
theorem settleRead_value (s : State) (x : HiLoRead) :
    (s.settleRead x).value = x.value ∨ (s.settleRead x).value = x.half s.passed ∨
      (s.settleRead x).value = x.half s.passed.rotated.passed := by
  have h : ∀ (y : HiLoRead) u n, (y.ahead s u n).value = y.value ∨ (y.ahead s u n).value = y.half u := by
    intro y u n
    unfold HiLoRead.ahead
    split
    · exact .inl rfl
    · exact oldOrNew_cases s _ _ _
  have hh : ∀ (y : HiLoRead) u n v, (y.ahead s u n).half v = y.half v := by
    intro y u n v; unfold HiLoRead.half; rw [(ahead_rd y s u n).2]
  unfold State.settleRead
  split
  · rcases h (x.ahead s s.passed 1) s.passed.rotated.passed 2 with e | e
    · rw [e]
      rcases h x s.passed 1 with e | e
      · exact .inl e
      · exact .inr (.inl e)
    · rw [e, hh]; exact .inr (.inr rfl)
  · exact .inl rfl

theorem deliverRead_eq (s : State) (x y : HiLoRead) : ∃ g, s.deliverRead x y = { s with gpr := g } := by
  unfold State.deliverRead State.setGpr
  split
  · exact ⟨_, rfl⟩
  · split <;> exact ⟨_, rfl⟩

theorem deliverRead_gprAt (s : State) (x y : HiLoRead) {q : Reg} (h : x.rd ≠ q) :
    (s.deliverRead x y).gprAt q = s.gprAt q := by
  unfold State.deliverRead
  split
  · rfl
  · exact gprAt_setGpr_of_ne s (Ne.symm h) _

/-- Settling the reads changes their registers only, and never `$0`. -/
theorem settleReads_eq (s : State) :
    ∃ g r, s.settleReads = { s with gpr := g, pipe := { s.pipe with hiloReads := r } } ∧ g[0] = s.gpr[0] ∧
      ∀ q, (∀ x ∈ s.pipe.hiloReads, x.rd ≠ q) → s.settleReads.gprAt q = s.gprAt q := by
  have fold : ∀ (l : List HiLoRead) (t : State), ∃ g,
      l.foldl (fun t x => t.deliverRead x (s.settleRead x)) t = { t with gpr := g } ∧ g[0] = t.gpr[0] ∧
      ∀ q, (∀ x ∈ l, x.rd ≠ q) → ({ t with gpr := g } : State).gprAt q = t.gprAt q := by
    intro l
    induction l with
    | nil => exact fun t => ⟨_, rfl, rfl, fun _ _ => rfl⟩
    | cons x l ih =>
      intro t
      obtain ⟨g, hg⟩ := deliverRead_eq t x (s.settleRead x)
      have h0 : g[0] = t.gpr[0] := by
        have : (t.deliverRead x (s.settleRead x)).gpr[0] = t.gpr[0] := by
          unfold State.deliverRead State.setGpr
          split
          · rfl
          · split
            · rfl
            · rename_i h
              have : x.rd.toNat ≠ 0 := fun e => h (BitVec.eq_of_toNat_eq e)
              simp [this]
        rw [hg] at this
        exact this
      obtain ⟨g', hg', h0', hq'⟩ := ih { t with gpr := g }
      refine ⟨g', ?_, h0'.trans h0, ?_⟩
      · rw [List.foldl_cons, hg, hg']
      · intro q hq
        have h1 := hq' q (fun y hy => hq y (List.mem_cons_of_mem _ hy))
        have h2 := deliverRead_gprAt t x (s.settleRead x) (hq x List.mem_cons_self)
        rw [hg] at h2
        exact h1.trans h2
  unfold State.settleReads
  split
  · exact ⟨_, _, rfl, rfl, fun _ _ => rfl⟩
  · obtain ⟨g, hg, h0, hq⟩ := fold s.pipe.hiloReads s
    simp only [hg]
    exact ⟨g, _, rfl, h0, hq⟩

/-- Settling the reads leaves a register as it is, or one that `mfhi` or `mflo` has just written takes the half that the
next instruction or the one behind it leaves. -/
theorem settleReads_gprAt (s : State) (q : Reg) :
    s.settleReads.gprAt q = s.gprAt q ∨ ∃ x ∈ s.pipe.hiloReads, x.age = 1 ∧ x.rd = q ∧
      (s.settleReads.gprAt q = x.half s.passed ∨ s.settleReads.gprAt q = x.half s.passed.rotated.passed) := by
  have one : ∀ (t : State) (x : HiLoRead), (t.deliverRead x (s.settleRead x)).gprAt q = t.gprAt q ∨
      (x.age = 1 ∧ x.rd = q ∧ ((t.deliverRead x (s.settleRead x)).gprAt q = x.half s.passed ∨
        (t.deliverRead x (s.settleRead x)).gprAt q = x.half s.passed.rotated.passed)) := by
    intro t x
    by_cases hq : x.rd = q
    · by_cases hv : (s.settleRead x).value = x.value
      · left; unfold State.deliverRead; rw [if_pos hv]
      · by_cases h0 : x.rd = 0
        · left; unfold State.deliverRead; rw [if_neg hv, h0]; rfl
        · right
          have ha : x.age = 1 := by
            by_contra h
            exact hv (by unfold State.settleRead; rw [if_neg h])
          have e : (t.deliverRead x (s.settleRead x)).gprAt q = (s.settleRead x).value := by
            unfold State.deliverRead
            rw [if_neg hv, ← hq]
            rw [gprAt_setGpr_self, if_neg h0]
          refine ⟨ha, hq, ?_⟩
          rw [e]
          rcases settleRead_value s x with h | h
          · exact absurd h hv
          · exact h
    · exact .inl (deliverRead_gprAt t x _ hq)
  have fold : ∀ (l : List HiLoRead) (t : State),
      (l.foldl (fun t x => t.deliverRead x (s.settleRead x)) t).gprAt q = t.gprAt q ∨ ∃ x ∈ l, x.age = 1 ∧ x.rd = q ∧
        ((l.foldl (fun t x => t.deliverRead x (s.settleRead x)) t).gprAt q = x.half s.passed ∨
          (l.foldl (fun t x => t.deliverRead x (s.settleRead x)) t).gprAt q = x.half s.passed.rotated.passed) := by
    intro l
    induction l with
    | nil => exact fun _ => .inl rfl
    | cons x l ih =>
      intro t
      rw [List.foldl_cons]
      rcases ih (t.deliverRead x (s.settleRead x)) with h | ⟨y, hy, h⟩
      · rw [h]
        rcases one t x with h | h
        · exact .inl h
        · exact .inr ⟨x, List.mem_cons_self, h⟩
      · exact .inr ⟨y, List.mem_cons_of_mem _ hy, h⟩
  unfold State.settleReads
  split
  · exact .inl rfl
  · exact fold s.pipe.hiloReads s

/-! ## An interrupt before an instruction -/

/-- The machine an interrupt finds: `s` at the boundary, but for the register of an `mfhi` or `mflo` just before. -/
theorem interrupted_eq (s : State) :
    s.interrupted = { s.atBoundary.draw with gpr := s.interrupted.gpr } ∧
      ∀ q, s.interrupted.gprAt q = s.gprAt q ∨ ∃ x ∈ s.pipe.hiloReads, x.age = 0 ∧ x.rd = q ∧
        (s.interrupted.gprAt q = x.half s.rotated.passed ∨
          s.interrupted.gprAt q = x.half s.rotated.passed.rotated.passed) := by
  refine ⟨rfl, fun q => ?_⟩
  rcases settleReads_gprAt s.rotated q with h | ⟨x, hx, ha, hq, h⟩
  · exact .inl h
  · have hx : x ∈ s.pipe.rotate.hiloReads := hx
    unfold Pipe.rotate at hx
    obtain ⟨y, hy, rfl⟩ := List.mem_map.mp (List.mem_filter.mp hx).1
    exact .inr ⟨y, hy, by simpa using ha, hq, h⟩

/-- With no read of HI or LO in flight an interrupt finds the machine at the boundary. -/
theorem interrupted_of_quiet {s : State} (hr : s.pipe.hiloReads = []) : s.interrupted = s.atBoundary.draw := by
  unfold State.interrupted State.settleReads
  have : s.rotated.pipe.hiloReads = [] := by simp [Pipe.rotate, hr]
  rw [this]
  rfl

/-! ## The start of an instruction -/

/-- HI and LO at the start of a handler: untouched, or as one of the two instructions behind the victim leaves them. -/
theorem startHandler_eq (s : State) :
    s.startHandler = { s with
      hi := s.startHandler.hi, lo := s.startHandler.lo
      pipe := { s.pipe with hiloFresh := s.startHandler.pipe.hiloFresh, aborted := none } } ∧
      (s.pipe.aborted = none → s.startHandler = s) := by
  cases h : s.pipe.aborted with
  | none =>
    have e : s.startHandler = s := by unfold State.startHandler; rw [h]
    refine ⟨?_, fun _ => e⟩
    rw [e, ← h]
  | some v =>
    refine ⟨?_, fun e => by cases e⟩
    unfold State.startHandler
    rw [h]
    simp only []
    split
    · rfl
    · split <;> rfl

/-- What a handler finds in HI and LO: what they held, or what they hold after one or both of the instructions behind the
victim. -/
theorem startHandler_hilo (s : State) :
    (s.startHandler.hi = s.hi ∧ s.startHandler.lo = s.lo) ∨ ∃ v u, s.pipe.aborted = some v ∧
      (u = (s.behindVictim v).passed ∨ u = (s.behindVictim v).passed.rotated.passed) ∧
      s.startHandler.hi = u.hi ∧ s.startHandler.lo = u.lo := by
  cases h : s.pipe.aborted with
  | none =>
    have e : s.startHandler = s := by unfold State.startHandler; rw [h]
    rw [e]
    exact .inl ⟨rfl, rfl⟩
  | some v =>
    unfold State.startHandler
    rw [h]
    simp only []
    split
    · exact .inr ⟨v, _, rfl, .inr rfl, rfl, rfl⟩
    · split
      · exact .inr ⟨v, _, rfl, .inl rfl, rfl, rfl⟩
      · exact .inl ⟨rfl, rfl⟩

/-- The timer at the start of an instruction: only Count, Tc* and the earlier values in a window can change, and nothing where
no `mtc0` is recent. -/
theorem settleTimer_eq (s : State) :
    ∃ n o l, s.settleTimer = { s with
      cp0 := { s.cp0 with count := n, tcOut := o }, pipe := { s.pipe with late := l } } ∧
      (s.pipe.late = [] → n = s.cp0.count ∧ o = s.cp0.tcOut ∧ l = []) := by
  by_cases h : s.pipe.late = []
  · refine ⟨_, _, [], ?_, fun _ => ⟨rfl, rfl, rfl⟩⟩
    have : s.settleTimer = s := by unfold State.settleTimer State.recent; rw [h]; simp
    rw [this, ← h]
  · unfold State.settleTimer
    split
    · exact ⟨_, _, _, rfl, fun e => absurd e h⟩
    · exact ⟨_, _, _, rfl, fun e => absurd e h⟩

/-- All the start of an instruction can change: the in-flight state moves on, the counter advances, HI and LO change only
behind an exception, a register only where an `mfhi` or `mflo` has just written it, and Count and Tc* only behind an
`mtc0`. -/
theorem begin_eq (s : State) :
    ∃ g hi lo f r n o l, s.begin = { s with
      gpr := g, hi := hi, lo := lo, draws := s.draws + 1
      cp0 := { s.cp0 with count := n, tcOut := o }
      pipe := { s.pipe.rotate with hiloFresh := f, aborted := none, hiloReads := r, late := l } } ∧ g[0] = s.gpr[0] ∧
      (s.pipe.aborted = none → hi = s.hi ∧ lo = s.lo) ∧
      (s.pipe.late = [] → n = s.cp0.count ∧ o = s.cp0.tcOut ∧ l = []) := by
  unfold State.begin
  obtain ⟨hf, hn⟩ := startHandler_eq s.rotated
  obtain ⟨g, r, hg, h0, -⟩ := settleReads_eq s.rotated.startHandler
  obtain ⟨n, o, l, ht, hl⟩ := settleTimer_eq s.rotated.startHandler.settleReads
  have hp : s.rotated.startHandler.pipe = { s.pipe.rotate with
      hiloFresh := s.rotated.startHandler.pipe.hiloFresh, aborted := none } := congrArg State.pipe hf
  have hc : s.rotated.startHandler.settleReads.cp0 = s.cp0 := by rw [hg]; simp
  have hq : s.rotated.startHandler.settleReads.pipe = { s.pipe.rotate with
      hiloFresh := s.rotated.startHandler.pipe.hiloFresh, aborted := none, hiloReads := r } := by
    rw [hg]; show { s.rotated.startHandler.pipe with hiloReads := r } = _; rw [hp]
  refine ⟨g, s.rotated.startHandler.hi, s.rotated.startHandler.lo, s.rotated.startHandler.pipe.hiloFresh, r,
    n, o, l, ?_, ?_, ?_, fun h => ?_⟩
  · rw [ht, hc, hq, hg]
    simp
  · rw [h0]; simp
  · intro h
    rw [hn h]
    exact ⟨rfl, rfl⟩
  · have : s.rotated.startHandler.settleReads.pipe.late = [] := by
      rw [hq]; show s.pipe.rotate.late = []; unfold Pipe.rotate; rw [h]; rfl
    have e := hl this
    rw [hc] at e
    exact e

/-- With nothing abandoned, no read of HI or LO in flight and no recent `mtc0`, an instruction starts with the in-flight state
one on. -/
theorem begin_of_quiet {s : State} (ha : s.pipe.aborted = none) (hr : s.pipe.hiloReads = []) (hl : s.pipe.late = []) :
    s.begin = s.rotated := by
  have h1 : s.rotated.startHandler = s.rotated := (startHandler_eq s.rotated).2 ha
  have h2 : s.rotated.settleReads = s.rotated := by
    unfold State.settleReads
    have : s.rotated.pipe.hiloReads = [] := by simp [Pipe.rotate, hr]
    rw [this]
    rfl
  have h3 : s.rotated.pipe.late = [] := by simp [Pipe.rotate, hl]
  unfold State.begin
  obtain ⟨n, o, l, ht, hl⟩ := settleTimer_eq s.rotated
  obtain ⟨rfl, rfl, rfl⟩ := hl h3
  rw [h1, h2, ht, ← h3]

@[simp] theorem begin_cfg (s : State) : s.begin.cfg = s.cfg := by
  obtain ⟨_, _, _, _, _, _, _, _, h, -⟩ := begin_eq s; rw [h]
@[simp] theorem begin_pc (s : State) : s.begin.pc = s.pc := by
  obtain ⟨_, _, _, _, _, _, _, _, h, -⟩ := begin_eq s; rw [h]
@[simp] theorem begin_npc (s : State) : s.begin.npc = s.npc := by
  obtain ⟨_, _, _, _, _, _, _, _, h, -⟩ := begin_eq s; rw [h]
@[simp] theorem begin_inDelay (s : State) : s.begin.inDelay = s.inDelay := by
  obtain ⟨_, _, _, _, _, _, _, _, h, -⟩ := begin_eq s; rw [h]
/-- Coprocessor 0 is as before but for Count and Tc* of the R3041. -/
theorem begin_cp0 (s : State) :
    s.begin.cp0 = { s.cp0 with count := s.begin.cp0.count, tcOut := s.begin.cp0.tcOut } := by
  obtain ⟨_, _, _, _, _, _, _, _, h, -⟩ := begin_eq s; rw [h]
@[simp] theorem begin_sr (s : State) : s.begin.cp0.sr = s.cp0.sr := by rw [begin_cp0]
@[simp] theorem begin_tlb (s : State) : s.begin.tlb = s.tlb := by
  obtain ⟨_, _, _, _, _, _, _, _, h, -⟩ := begin_eq s; rw [h]
@[simp] theorem begin_utlb (s : State) : s.begin.utlb = s.utlb := by
  obtain ⟨_, _, _, _, _, _, _, _, h, -⟩ := begin_eq s; rw [h]
@[simp] theorem begin_fpr (s : State) : s.begin.fpr = s.fpr := by
  obtain ⟨_, _, _, _, _, _, _, _, h, -⟩ := begin_eq s; rw [h]
@[simp] theorem begin_fcr31 (s : State) : s.begin.fcr31 = s.fcr31 := by
  obtain ⟨_, _, _, _, _, _, _, _, h, -⟩ := begin_eq s; rw [h]
@[simp] theorem begin_mem (s : State) : s.begin.mem = s.mem := by
  obtain ⟨_, _, _, _, _, _, _, _, h, -⟩ := begin_eq s; rw [h]
@[simp] theorem begin_wbuf (s : State) : s.begin.wbuf = s.wbuf := by
  obtain ⟨_, _, _, _, _, _, _, _, h, -⟩ := begin_eq s; rw [h]
@[simp] theorem begin_dcache (s : State) : s.begin.dcache = s.dcache := by
  obtain ⟨_, _, _, _, _, _, _, _, h, -⟩ := begin_eq s; rw [h]
@[simp] theorem begin_icache (s : State) : s.begin.icache = s.icache := by
  obtain ⟨_, _, _, _, _, _, _, _, h, -⟩ := begin_eq s; rw [h]
@[simp] theorem begin_pins (s : State) : s.begin.pins = s.pins := by
  obtain ⟨_, _, _, _, _, _, _, _, h, -⟩ := begin_eq s; rw [h]
@[simp] theorem begin_events (s : State) : s.begin.events = s.events := by
  obtain ⟨_, _, _, _, _, _, _, _, h, -⟩ := begin_eq s; rw [h]
@[simp] theorem begin_draws (s : State) : s.begin.draws = s.draws + 1 := by
  obtain ⟨_, _, _, _, _, _, _, _, h, -⟩ := begin_eq s; rw [h]

end Sys2Proof.Laws
end

