-- ==== Sys2Proof/Laws/Encoding.lean ====
section
/-! SUPPORT. The fields of an encoded word are the fields it was made of (30_encoding.md R161). -/

namespace Sys2Proof.Laws

theorem extract_append_low {a b : Nat} (x : BitVec a) (y : BitVec b) (s n : Nat) (h : s + n ≤ b) :
    (x ++ y).extractLsb' s n = y.extractLsb' s n := by
  apply BitVec.eq_of_getLsbD_eq; intro i hi
  simp only [BitVec.getLsbD_extractLsb', BitVec.getLsbD_append]
  simp [show s + i < b by omega]

theorem extract_append_high {a b : Nat} (x : BitVec a) (y : BitVec b) (s n : Nat) (h : b ≤ s) :
    (x ++ y).extractLsb' s n = x.extractLsb' (s - b) n := by
  apply BitVec.eq_of_getLsbD_eq; intro i hi
  simp only [BitVec.getLsbD_extractLsb', BitVec.getLsbD_append]
  simp [show ¬ s + i < b by omega, show s + i - b = s - b + i by omega]

theorem extract_self {a : Nat} (x : BitVec a) : x.extractLsb' 0 a = x := by
  apply BitVec.eq_of_getLsbD_eq; intro i hi
  simp [hi]

@[simp] theorem opOf_rType (op : BitVec 6) (rs rt rd shamt : BitVec 5) (funct : BitVec 6) : opOf (rType op rs rt rd shamt funct) = op := by
  show @BitVec.extractLsb' (6+5+5+5+5+6) 26 6 (op ++ rs ++ rt ++ rd ++ shamt ++ funct) = op
  rw [extract_append_high _ _ _ _ (by decide), extract_append_high _ _ _ _ (by decide), extract_append_high _ _ _ _ (by decide), extract_append_high _ _ _ _ (by decide), extract_append_high _ _ _ _ (by decide), extract_self]

@[simp] theorem rsOf_rType (op : BitVec 6) (rs rt rd shamt : BitVec 5) (funct : BitVec 6) : rsOf (rType op rs rt rd shamt funct) = rs := by
  show @BitVec.extractLsb' (6+5+5+5+5+6) 21 5 (op ++ rs ++ rt ++ rd ++ shamt ++ funct) = rs
  rw [extract_append_high _ _ _ _ (by decide), extract_append_high _ _ _ _ (by decide), extract_append_high _ _ _ _ (by decide), extract_append_high _ _ _ _ (by decide), extract_append_low _ _ _ _ (by decide), extract_self]

@[simp] theorem rtOf_rType (op : BitVec 6) (rs rt rd shamt : BitVec 5) (funct : BitVec 6) : rtOf (rType op rs rt rd shamt funct) = rt := by
  show @BitVec.extractLsb' (6+5+5+5+5+6) 16 5 (op ++ rs ++ rt ++ rd ++ shamt ++ funct) = rt
  rw [extract_append_high _ _ _ _ (by decide), extract_append_high _ _ _ _ (by decide), extract_append_high _ _ _ _ (by decide), extract_append_low _ _ _ _ (by decide), extract_self]

@[simp] theorem rdOf_rType (op : BitVec 6) (rs rt rd shamt : BitVec 5) (funct : BitVec 6) : rdOf (rType op rs rt rd shamt funct) = rd := by
  show @BitVec.extractLsb' (6+5+5+5+5+6) 11 5 (op ++ rs ++ rt ++ rd ++ shamt ++ funct) = rd
  rw [extract_append_high _ _ _ _ (by decide), extract_append_high _ _ _ _ (by decide), extract_append_low _ _ _ _ (by decide), extract_self]

@[simp] theorem shamtOf_rType (op : BitVec 6) (rs rt rd shamt : BitVec 5) (funct : BitVec 6) : shamtOf (rType op rs rt rd shamt funct) = shamt := by
  show @BitVec.extractLsb' (6+5+5+5+5+6) 6 5 (op ++ rs ++ rt ++ rd ++ shamt ++ funct) = shamt
  rw [extract_append_high _ _ _ _ (by decide), extract_append_low _ _ _ _ (by decide), extract_self]

@[simp] theorem functOf_rType (op : BitVec 6) (rs rt rd shamt : BitVec 5) (funct : BitVec 6) : functOf (rType op rs rt rd shamt funct) = funct := by
  show @BitVec.extractLsb' (6+5+5+5+5+6) 0 6 (op ++ rs ++ rt ++ rd ++ shamt ++ funct) = funct
  rw [extract_append_low _ _ _ _ (by decide), extract_self]

@[simp] theorem opOf_iType (op : BitVec 6) (rs rt : BitVec 5) (imm : BitVec 16) : opOf (iType op rs rt imm) = op := by
  show @BitVec.extractLsb' (6+5+5+16) 26 6 (op ++ rs ++ rt ++ imm) = op
  rw [extract_append_high _ _ _ _ (by decide), extract_append_high _ _ _ _ (by decide), extract_append_high _ _ _ _ (by decide), extract_self]

@[simp] theorem rsOf_iType (op : BitVec 6) (rs rt : BitVec 5) (imm : BitVec 16) : rsOf (iType op rs rt imm) = rs := by
  show @BitVec.extractLsb' (6+5+5+16) 21 5 (op ++ rs ++ rt ++ imm) = rs
  rw [extract_append_high _ _ _ _ (by decide), extract_append_high _ _ _ _ (by decide), extract_append_low _ _ _ _ (by decide), extract_self]

@[simp] theorem rtOf_iType (op : BitVec 6) (rs rt : BitVec 5) (imm : BitVec 16) : rtOf (iType op rs rt imm) = rt := by
  show @BitVec.extractLsb' (6+5+5+16) 16 5 (op ++ rs ++ rt ++ imm) = rt
  rw [extract_append_high _ _ _ _ (by decide), extract_append_low _ _ _ _ (by decide), extract_self]

@[simp] theorem immOf_iType (op : BitVec 6) (rs rt : BitVec 5) (imm : BitVec 16) : immOf (iType op rs rt imm) = imm := by
  show @BitVec.extractLsb' (6+5+5+16) 0 16 (op ++ rs ++ rt ++ imm) = imm
  rw [extract_append_low _ _ _ _ (by decide), extract_self]

@[simp] theorem opOf_jType (op : BitVec 6) (target : BitVec 26) : opOf (jType op target) = op := by
  show @BitVec.extractLsb' (6+26) 26 6 (op ++ target) = op
  rw [extract_append_high _ _ _ _ (by decide), extract_self]

@[simp] theorem targetOf_jType (op : BitVec 6) (target : BitVec 26) : targetOf (jType op target) = target := by
  show @BitVec.extractLsb' (6+26) 0 26 (op ++ target) = target
  rw [extract_append_low _ _ _ _ (by decide), extract_self]

@[simp] theorem opOf_codeType (code : BitVec 20) (funct : BitVec 6) : opOf (codeType code funct) = 0#6 := by
  show @BitVec.extractLsb' (6+20+6) 26 6 (0#6 ++ code ++ funct) = 0#6
  rw [extract_append_high _ _ _ _ (by decide), extract_append_high _ _ _ _ (by decide), extract_self]

@[simp] theorem codeOf_codeType (code : BitVec 20) (funct : BitVec 6) : codeOf (codeType code funct) = code := by
  show @BitVec.extractLsb' (6+20+6) 6 20 (0#6 ++ code ++ funct) = code
  rw [extract_append_high _ _ _ _ (by decide), extract_append_low _ _ _ _ (by decide), extract_self]

@[simp] theorem functOf_codeType (code : BitVec 20) (funct : BitVec 6) : functOf (codeType code funct) = funct := by
  show @BitVec.extractLsb' (6+20+6) 0 6 (0#6 ++ code ++ funct) = funct
  rw [extract_append_low _ _ _ _ (by decide), extract_self]

@[simp] theorem opOf_copType (op : BitVec 6) (cofun : BitVec 25) : opOf (copType op cofun) = op := by
  show @BitVec.extractLsb' (6+1+25) 26 6 (op ++ 1#1 ++ cofun) = op
  rw [extract_append_high _ _ _ _ (by decide), extract_append_high _ _ _ _ (by decide), extract_self]

@[simp] theorem cofunOf_copType (op : BitVec 6) (cofun : BitVec 25) : cofunOf (copType op cofun) = cofun := by
  show @BitVec.extractLsb' (6+1+25) 0 25 (op ++ 1#1 ++ cofun) = cofun
  rw [extract_append_low _ _ _ _ (by decide), extract_self]

/-- A coprocessor operation has bit 25 set, so its `rs` field is 16 or more (R171). -/
theorem rsOf_copType_ge (op : BitVec 6) (cofun : BitVec 25) : 16 ≤ (rsOf (copType op cofun)).toNat := by
  have h : (rsOf (copType op cofun)).getLsbD 4 = true := by
    show (@BitVec.extractLsb' (6+1+25) 21 5 (op ++ 1#1 ++ cofun)).getLsbD 4 = true
    rw [BitVec.getLsbD_extractLsb', BitVec.getLsbD_append, BitVec.getLsbD_append]
    rfl
  have := BitVec.toNat_ge_of_msb_true (x := rsOf (copType op cofun)) (by simpa [BitVec.msb_eq_getLsbD_last] using h)
  simpa using this

end Sys2Proof.Laws
end

