-- ==== Sys2Proof/Laws/PerInstr.lean ====
section
/-! SUPPORT. The families whose statement is made of every instruction: the encoder writes a word of the instruction's
row of the opcode table (30_encoding.md R167-R174). -/

namespace Sys2Proof.Laws

/-! ## A word under the masks of the table -/

theorem rType_op_funct (op : BitVec 6) (rs rt rd shamt : BitVec 5) (funct : BitVec 6) :
    rType op rs rt rd shamt funct &&& 0xFC00003F = rType op 0 0 0 0 funct := by
  apply BitVec.eq_of_getLsbD_eq; intro i hi
  simp only [rType, BitVec.getLsbD_and, BitVec.getLsbD_append]
  interval_cases i <;> simp

theorem rType_op_rs_funct (op : BitVec 6) (rs rt rd shamt : BitVec 5) (funct : BitVec 6) :
    rType op rs rt rd shamt funct &&& 0xFFE0003F = rType op rs 0 0 0 funct := by
  apply BitVec.eq_of_getLsbD_eq; intro i hi
  simp only [rType, BitVec.getLsbD_and, BitVec.getLsbD_append]
  interval_cases i <;> simp

theorem rType_op_rs (op : BitVec 6) (rs rt rd shamt : BitVec 5) (funct : BitVec 6) :
    rType op rs rt rd shamt funct &&& 0xFFE00000 = rType op rs 0 0 0 0 := by
  apply BitVec.eq_of_getLsbD_eq; intro i hi
  simp only [rType, BitVec.getLsbD_and, BitVec.getLsbD_append]
  interval_cases i <;> simp

theorem iType_op (op : BitVec 6) (rs rt : BitVec 5) (imm : BitVec 16) :
    iType op rs rt imm &&& 0xFC000000 = iType op 0 0 0 := by
  apply BitVec.eq_of_getLsbD_eq; intro i hi
  simp only [iType, BitVec.getLsbD_and, BitVec.getLsbD_append]
  interval_cases i <;> simp

theorem iType_op_rs_rt (op : BitVec 6) (rs rt : BitVec 5) (imm : BitVec 16) :
    iType op rs rt imm &&& 0xFFFF0000 = iType op rs rt 0 := by
  apply BitVec.eq_of_getLsbD_eq; intro i hi
  simp only [iType, BitVec.getLsbD_and, BitVec.getLsbD_append]
  interval_cases i <;> simp

theorem iType_op_rt (op : BitVec 6) (rs rt : BitVec 5) (imm : BitVec 16) :
    iType op rs rt imm &&& 0xFC1F0000 = iType op 0 rt 0 := by
  apply BitVec.eq_of_getLsbD_eq; intro i hi
  simp only [iType, BitVec.getLsbD_and, BitVec.getLsbD_append]
  interval_cases i <;> simp

theorem codeType_op_funct (code : BitVec 20) (funct : BitVec 6) :
    codeType code funct &&& 0xFC00003F = codeType 0 funct := by
  apply BitVec.eq_of_getLsbD_eq; intro i hi
  simp only [codeType, BitVec.getLsbD_and, BitVec.getLsbD_append]
  interval_cases i <;> simp

theorem jType_op (op : BitVec 6) (target : BitVec 26) :
    jType op target &&& 0xFC000000 = jType op 0 := by
  apply BitVec.eq_of_getLsbD_eq; intro i hi
  simp only [jType, BitVec.getLsbD_and, BitVec.getLsbD_append]
  interval_cases i <;> simp

theorem copType_op (op : BitVec 6) (cofun : BitVec 25) :
    copType op cofun &&& 0xFE000000 = copType op 0 := by
  apply BitVec.eq_of_getLsbD_eq; intro i hi
  simp only [copType, BitVec.getLsbD_and, BitVec.getLsbD_append]
  interval_cases i <;> simp

/-! ## Every instruction -/

/-- The encoder's word has the row's bits under the row's mask. -/
def OpcodeRow.Statement (i : Instr) : Prop := encode i &&& (opcodeRow i).mask = (opcodeRow i).value

theorem OpcodeRow.sll (rd : Reg) (rt : Reg) (shamt : BitVec 5) : OpcodeRow.Statement (.sll rd rt shamt) := rType_op_funct _ _ _ _ _ _

theorem OpcodeRow.srl (rd : Reg) (rt : Reg) (shamt : BitVec 5) : OpcodeRow.Statement (.srl rd rt shamt) := rType_op_funct _ _ _ _ _ _

theorem OpcodeRow.sra (rd : Reg) (rt : Reg) (shamt : BitVec 5) : OpcodeRow.Statement (.sra rd rt shamt) := rType_op_funct _ _ _ _ _ _

theorem OpcodeRow.sllv (rd : Reg) (rt : Reg) (rs : Reg) : OpcodeRow.Statement (.sllv rd rt rs) := rType_op_funct _ _ _ _ _ _

theorem OpcodeRow.srlv (rd : Reg) (rt : Reg) (rs : Reg) : OpcodeRow.Statement (.srlv rd rt rs) := rType_op_funct _ _ _ _ _ _

theorem OpcodeRow.srav (rd : Reg) (rt : Reg) (rs : Reg) : OpcodeRow.Statement (.srav rd rt rs) := rType_op_funct _ _ _ _ _ _

theorem OpcodeRow.jr (rs : Reg) : OpcodeRow.Statement (.jr rs) := rType_op_funct _ _ _ _ _ _

theorem OpcodeRow.jalr (rd : Reg) (rs : Reg) : OpcodeRow.Statement (.jalr rd rs) := rType_op_funct _ _ _ _ _ _

theorem OpcodeRow.syscall (code : BitVec 20) : OpcodeRow.Statement (.syscall code) := codeType_op_funct _ _

theorem OpcodeRow.break_ (code : BitVec 20) : OpcodeRow.Statement (.break_ code) := codeType_op_funct _ _

theorem OpcodeRow.mfhi (rd : Reg) : OpcodeRow.Statement (.mfhi rd) := rType_op_funct _ _ _ _ _ _

theorem OpcodeRow.mthi (rs : Reg) : OpcodeRow.Statement (.mthi rs) := rType_op_funct _ _ _ _ _ _

theorem OpcodeRow.mflo (rd : Reg) : OpcodeRow.Statement (.mflo rd) := rType_op_funct _ _ _ _ _ _

theorem OpcodeRow.mtlo (rs : Reg) : OpcodeRow.Statement (.mtlo rs) := rType_op_funct _ _ _ _ _ _

theorem OpcodeRow.mult (rs : Reg) (rt : Reg) : OpcodeRow.Statement (.mult rs rt) := rType_op_funct _ _ _ _ _ _

theorem OpcodeRow.multu (rs : Reg) (rt : Reg) : OpcodeRow.Statement (.multu rs rt) := rType_op_funct _ _ _ _ _ _

theorem OpcodeRow.div (rs : Reg) (rt : Reg) : OpcodeRow.Statement (.div rs rt) := rType_op_funct _ _ _ _ _ _

theorem OpcodeRow.divu (rs : Reg) (rt : Reg) : OpcodeRow.Statement (.divu rs rt) := rType_op_funct _ _ _ _ _ _

theorem OpcodeRow.add (rd : Reg) (rs : Reg) (rt : Reg) : OpcodeRow.Statement (.add rd rs rt) := rType_op_funct _ _ _ _ _ _

theorem OpcodeRow.addu (rd : Reg) (rs : Reg) (rt : Reg) : OpcodeRow.Statement (.addu rd rs rt) := rType_op_funct _ _ _ _ _ _

theorem OpcodeRow.sub (rd : Reg) (rs : Reg) (rt : Reg) : OpcodeRow.Statement (.sub rd rs rt) := rType_op_funct _ _ _ _ _ _

theorem OpcodeRow.subu (rd : Reg) (rs : Reg) (rt : Reg) : OpcodeRow.Statement (.subu rd rs rt) := rType_op_funct _ _ _ _ _ _

theorem OpcodeRow.and (rd : Reg) (rs : Reg) (rt : Reg) : OpcodeRow.Statement (.and rd rs rt) := rType_op_funct _ _ _ _ _ _

theorem OpcodeRow.or (rd : Reg) (rs : Reg) (rt : Reg) : OpcodeRow.Statement (.or rd rs rt) := rType_op_funct _ _ _ _ _ _

theorem OpcodeRow.xor (rd : Reg) (rs : Reg) (rt : Reg) : OpcodeRow.Statement (.xor rd rs rt) := rType_op_funct _ _ _ _ _ _

theorem OpcodeRow.nor (rd : Reg) (rs : Reg) (rt : Reg) : OpcodeRow.Statement (.nor rd rs rt) := rType_op_funct _ _ _ _ _ _

theorem OpcodeRow.slt (rd : Reg) (rs : Reg) (rt : Reg) : OpcodeRow.Statement (.slt rd rs rt) := rType_op_funct _ _ _ _ _ _

theorem OpcodeRow.sltu (rd : Reg) (rs : Reg) (rt : Reg) : OpcodeRow.Statement (.sltu rd rs rt) := rType_op_funct _ _ _ _ _ _

theorem OpcodeRow.bltz (rs : Reg) (offset : BitVec 16) : OpcodeRow.Statement (.bltz rs offset) := iType_op_rt _ _ _ _

theorem OpcodeRow.bgez (rs : Reg) (offset : BitVec 16) : OpcodeRow.Statement (.bgez rs offset) := iType_op_rt _ _ _ _

theorem OpcodeRow.bltzal (rs : Reg) (offset : BitVec 16) : OpcodeRow.Statement (.bltzal rs offset) := iType_op_rt _ _ _ _

theorem OpcodeRow.bgezal (rs : Reg) (offset : BitVec 16) : OpcodeRow.Statement (.bgezal rs offset) := iType_op_rt _ _ _ _

theorem OpcodeRow.j (target : BitVec 26) : OpcodeRow.Statement (.j target) := jType_op _ _

theorem OpcodeRow.jal (target : BitVec 26) : OpcodeRow.Statement (.jal target) := jType_op _ _

theorem OpcodeRow.beq (rs : Reg) (rt : Reg) (offset : BitVec 16) : OpcodeRow.Statement (.beq rs rt offset) := iType_op _ _ _ _

theorem OpcodeRow.bne (rs : Reg) (rt : Reg) (offset : BitVec 16) : OpcodeRow.Statement (.bne rs rt offset) := iType_op _ _ _ _

theorem OpcodeRow.blez (rs : Reg) (offset : BitVec 16) : OpcodeRow.Statement (.blez rs offset) := iType_op _ _ _ _

theorem OpcodeRow.bgtz (rs : Reg) (offset : BitVec 16) : OpcodeRow.Statement (.bgtz rs offset) := iType_op _ _ _ _

theorem OpcodeRow.addi (rt : Reg) (rs : Reg) (imm : BitVec 16) : OpcodeRow.Statement (.addi rt rs imm) := iType_op _ _ _ _

theorem OpcodeRow.addiu (rt : Reg) (rs : Reg) (imm : BitVec 16) : OpcodeRow.Statement (.addiu rt rs imm) := iType_op _ _ _ _

theorem OpcodeRow.slti (rt : Reg) (rs : Reg) (imm : BitVec 16) : OpcodeRow.Statement (.slti rt rs imm) := iType_op _ _ _ _

theorem OpcodeRow.sltiu (rt : Reg) (rs : Reg) (imm : BitVec 16) : OpcodeRow.Statement (.sltiu rt rs imm) := iType_op _ _ _ _

theorem OpcodeRow.andi (rt : Reg) (rs : Reg) (imm : BitVec 16) : OpcodeRow.Statement (.andi rt rs imm) := iType_op _ _ _ _

theorem OpcodeRow.ori (rt : Reg) (rs : Reg) (imm : BitVec 16) : OpcodeRow.Statement (.ori rt rs imm) := iType_op _ _ _ _

theorem OpcodeRow.xori (rt : Reg) (rs : Reg) (imm : BitVec 16) : OpcodeRow.Statement (.xori rt rs imm) := iType_op _ _ _ _

theorem OpcodeRow.lui (rt : Reg) (imm : BitVec 16) : OpcodeRow.Statement (.lui rt imm) := iType_op _ _ _ _

theorem OpcodeRow.lb (rt : Reg) (offset : BitVec 16) (base : Reg) : OpcodeRow.Statement (.lb rt offset base) := iType_op _ _ _ _

theorem OpcodeRow.lh (rt : Reg) (offset : BitVec 16) (base : Reg) : OpcodeRow.Statement (.lh rt offset base) := iType_op _ _ _ _

theorem OpcodeRow.lwl (rt : Reg) (offset : BitVec 16) (base : Reg) : OpcodeRow.Statement (.lwl rt offset base) := iType_op _ _ _ _

theorem OpcodeRow.lw (rt : Reg) (offset : BitVec 16) (base : Reg) : OpcodeRow.Statement (.lw rt offset base) := iType_op _ _ _ _

theorem OpcodeRow.lbu (rt : Reg) (offset : BitVec 16) (base : Reg) : OpcodeRow.Statement (.lbu rt offset base) := iType_op _ _ _ _

theorem OpcodeRow.lhu (rt : Reg) (offset : BitVec 16) (base : Reg) : OpcodeRow.Statement (.lhu rt offset base) := iType_op _ _ _ _

theorem OpcodeRow.lwr (rt : Reg) (offset : BitVec 16) (base : Reg) : OpcodeRow.Statement (.lwr rt offset base) := iType_op _ _ _ _

theorem OpcodeRow.sb (rt : Reg) (offset : BitVec 16) (base : Reg) : OpcodeRow.Statement (.sb rt offset base) := iType_op _ _ _ _

theorem OpcodeRow.sh (rt : Reg) (offset : BitVec 16) (base : Reg) : OpcodeRow.Statement (.sh rt offset base) := iType_op _ _ _ _

theorem OpcodeRow.swl (rt : Reg) (offset : BitVec 16) (base : Reg) : OpcodeRow.Statement (.swl rt offset base) := iType_op _ _ _ _

theorem OpcodeRow.sw (rt : Reg) (offset : BitVec 16) (base : Reg) : OpcodeRow.Statement (.sw rt offset base) := iType_op _ _ _ _

theorem OpcodeRow.swr (rt : Reg) (offset : BitVec 16) (base : Reg) : OpcodeRow.Statement (.swr rt offset base) := iType_op _ _ _ _

theorem OpcodeRow.mfc0 (rt : Reg) (rd : Reg) : OpcodeRow.Statement (.mfc0 rt rd) := rType_op_rs _ _ _ _ _ _

theorem OpcodeRow.mtc0 (rt : Reg) (rd : Reg) : OpcodeRow.Statement (.mtc0 rt rd) := rType_op_rs _ _ _ _ _ _

theorem OpcodeRow.cfc0 (rt : Reg) (rd : Reg) : OpcodeRow.Statement (.cfc0 rt rd) := rType_op_rs _ _ _ _ _ _

theorem OpcodeRow.ctc0 (rt : Reg) (rd : Reg) : OpcodeRow.Statement (.ctc0 rt rd) := rType_op_rs _ _ _ _ _ _

theorem OpcodeRow.tlbr : OpcodeRow.Statement .tlbr := by
  unfold OpcodeRow.Statement; decide

theorem OpcodeRow.tlbwi : OpcodeRow.Statement .tlbwi := by
  unfold OpcodeRow.Statement; decide

theorem OpcodeRow.tlbwr : OpcodeRow.Statement .tlbwr := by
  unfold OpcodeRow.Statement; decide

theorem OpcodeRow.tlbp : OpcodeRow.Statement .tlbp := by
  unfold OpcodeRow.Statement; decide

theorem OpcodeRow.rfe : OpcodeRow.Statement .rfe := by
  unfold OpcodeRow.Statement; decide

theorem OpcodeRow.bc0f (offset : BitVec 16) : OpcodeRow.Statement (.bc0f offset) := iType_op_rs_rt _ _ _ _

theorem OpcodeRow.bc0t (offset : BitVec 16) : OpcodeRow.Statement (.bc0t offset) := iType_op_rs_rt _ _ _ _

theorem OpcodeRow.bc1f (offset : BitVec 16) : OpcodeRow.Statement (.bc1f offset) := iType_op_rs_rt _ _ _ _

theorem OpcodeRow.bc1t (offset : BitVec 16) : OpcodeRow.Statement (.bc1t offset) := iType_op_rs_rt _ _ _ _

theorem OpcodeRow.bc2f (offset : BitVec 16) : OpcodeRow.Statement (.bc2f offset) := iType_op_rs_rt _ _ _ _

theorem OpcodeRow.bc2t (offset : BitVec 16) : OpcodeRow.Statement (.bc2t offset) := iType_op_rs_rt _ _ _ _

theorem OpcodeRow.bc3f (offset : BitVec 16) : OpcodeRow.Statement (.bc3f offset) := iType_op_rs_rt _ _ _ _

theorem OpcodeRow.bc3t (offset : BitVec 16) : OpcodeRow.Statement (.bc3t offset) := iType_op_rs_rt _ _ _ _

theorem OpcodeRow.mfc2 (rt : Reg) (rd : Reg) : OpcodeRow.Statement (.mfc2 rt rd) := rType_op_rs _ _ _ _ _ _

theorem OpcodeRow.cfc2 (rt : Reg) (rd : Reg) : OpcodeRow.Statement (.cfc2 rt rd) := rType_op_rs _ _ _ _ _ _

theorem OpcodeRow.mtc2 (rt : Reg) (rd : Reg) : OpcodeRow.Statement (.mtc2 rt rd) := rType_op_rs _ _ _ _ _ _

theorem OpcodeRow.ctc2 (rt : Reg) (rd : Reg) : OpcodeRow.Statement (.ctc2 rt rd) := rType_op_rs _ _ _ _ _ _

theorem OpcodeRow.cop2 (cofun : BitVec 25) : OpcodeRow.Statement (.cop2 cofun) := copType_op _ _

theorem OpcodeRow.mfc3 (rt : Reg) (rd : Reg) : OpcodeRow.Statement (.mfc3 rt rd) := rType_op_rs _ _ _ _ _ _

theorem OpcodeRow.cfc3 (rt : Reg) (rd : Reg) : OpcodeRow.Statement (.cfc3 rt rd) := rType_op_rs _ _ _ _ _ _

theorem OpcodeRow.mtc3 (rt : Reg) (rd : Reg) : OpcodeRow.Statement (.mtc3 rt rd) := rType_op_rs _ _ _ _ _ _

theorem OpcodeRow.ctc3 (rt : Reg) (rd : Reg) : OpcodeRow.Statement (.ctc3 rt rd) := rType_op_rs _ _ _ _ _ _

theorem OpcodeRow.cop3 (cofun : BitVec 25) : OpcodeRow.Statement (.cop3 cofun) := copType_op _ _

theorem OpcodeRow.mfc1 (rt : Reg) (fs : Reg) : OpcodeRow.Statement (.mfc1 rt fs) := rType_op_rs _ _ _ _ _ _

theorem OpcodeRow.cfc1 (rt : Reg) (fs : Reg) : OpcodeRow.Statement (.cfc1 rt fs) := rType_op_rs _ _ _ _ _ _

theorem OpcodeRow.mtc1 (rt : Reg) (fs : Reg) : OpcodeRow.Statement (.mtc1 rt fs) := rType_op_rs _ _ _ _ _ _

theorem OpcodeRow.ctc1 (rt : Reg) (fs : Reg) : OpcodeRow.Statement (.ctc1 rt fs) := rType_op_rs _ _ _ _ _ _

theorem OpcodeRow.lwc0 (rt : Reg) (offset : BitVec 16) (base : Reg) : OpcodeRow.Statement (.lwc0 rt offset base) := iType_op _ _ _ _

theorem OpcodeRow.swc0 (rt : Reg) (offset : BitVec 16) (base : Reg) : OpcodeRow.Statement (.swc0 rt offset base) := iType_op _ _ _ _

theorem OpcodeRow.lwc1 (ft : Reg) (offset : BitVec 16) (base : Reg) : OpcodeRow.Statement (.lwc1 ft offset base) := iType_op _ _ _ _

theorem OpcodeRow.swc1 (ft : Reg) (offset : BitVec 16) (base : Reg) : OpcodeRow.Statement (.swc1 ft offset base) := iType_op _ _ _ _

theorem OpcodeRow.lwc2 (rt : Reg) (offset : BitVec 16) (base : Reg) : OpcodeRow.Statement (.lwc2 rt offset base) := iType_op _ _ _ _

theorem OpcodeRow.lwc3 (rt : Reg) (offset : BitVec 16) (base : Reg) : OpcodeRow.Statement (.lwc3 rt offset base) := iType_op _ _ _ _

theorem OpcodeRow.swc2 (rt : Reg) (offset : BitVec 16) (base : Reg) : OpcodeRow.Statement (.swc2 rt offset base) := iType_op _ _ _ _

theorem OpcodeRow.swc3 (rt : Reg) (offset : BitVec 16) (base : Reg) : OpcodeRow.Statement (.swc3 rt offset base) := iType_op _ _ _ _

theorem OpcodeRow.addS (fd : Reg) (fs : Reg) (ft : Reg) : OpcodeRow.Statement (.addS fd fs ft) := rType_op_rs_funct _ _ _ _ _ _

theorem OpcodeRow.addD (fd : Reg) (fs : Reg) (ft : Reg) : OpcodeRow.Statement (.addD fd fs ft) := rType_op_rs_funct _ _ _ _ _ _

theorem OpcodeRow.subS (fd : Reg) (fs : Reg) (ft : Reg) : OpcodeRow.Statement (.subS fd fs ft) := rType_op_rs_funct _ _ _ _ _ _

theorem OpcodeRow.subD (fd : Reg) (fs : Reg) (ft : Reg) : OpcodeRow.Statement (.subD fd fs ft) := rType_op_rs_funct _ _ _ _ _ _

theorem OpcodeRow.mulS (fd : Reg) (fs : Reg) (ft : Reg) : OpcodeRow.Statement (.mulS fd fs ft) := rType_op_rs_funct _ _ _ _ _ _

theorem OpcodeRow.mulD (fd : Reg) (fs : Reg) (ft : Reg) : OpcodeRow.Statement (.mulD fd fs ft) := rType_op_rs_funct _ _ _ _ _ _

theorem OpcodeRow.divS (fd : Reg) (fs : Reg) (ft : Reg) : OpcodeRow.Statement (.divS fd fs ft) := rType_op_rs_funct _ _ _ _ _ _

theorem OpcodeRow.divD (fd : Reg) (fs : Reg) (ft : Reg) : OpcodeRow.Statement (.divD fd fs ft) := rType_op_rs_funct _ _ _ _ _ _

theorem OpcodeRow.absS (fd : Reg) (fs : Reg) : OpcodeRow.Statement (.absS fd fs) := rType_op_rs_funct _ _ _ _ _ _

theorem OpcodeRow.absD (fd : Reg) (fs : Reg) : OpcodeRow.Statement (.absD fd fs) := rType_op_rs_funct _ _ _ _ _ _

theorem OpcodeRow.negS (fd : Reg) (fs : Reg) : OpcodeRow.Statement (.negS fd fs) := rType_op_rs_funct _ _ _ _ _ _

theorem OpcodeRow.negD (fd : Reg) (fs : Reg) : OpcodeRow.Statement (.negD fd fs) := rType_op_rs_funct _ _ _ _ _ _

theorem OpcodeRow.movS (fd : Reg) (fs : Reg) : OpcodeRow.Statement (.movS fd fs) := rType_op_rs_funct _ _ _ _ _ _

theorem OpcodeRow.movD (fd : Reg) (fs : Reg) : OpcodeRow.Statement (.movD fd fs) := rType_op_rs_funct _ _ _ _ _ _

theorem OpcodeRow.cvtSD (fd : Reg) (fs : Reg) : OpcodeRow.Statement (.cvtSD fd fs) := rType_op_rs_funct _ _ _ _ _ _

theorem OpcodeRow.cvtSW (fd : Reg) (fs : Reg) : OpcodeRow.Statement (.cvtSW fd fs) := rType_op_rs_funct _ _ _ _ _ _

theorem OpcodeRow.cvtDS (fd : Reg) (fs : Reg) : OpcodeRow.Statement (.cvtDS fd fs) := rType_op_rs_funct _ _ _ _ _ _

theorem OpcodeRow.cvtDW (fd : Reg) (fs : Reg) : OpcodeRow.Statement (.cvtDW fd fs) := rType_op_rs_funct _ _ _ _ _ _

theorem OpcodeRow.cvtWS (fd : Reg) (fs : Reg) : OpcodeRow.Statement (.cvtWS fd fs) := rType_op_rs_funct _ _ _ _ _ _

theorem OpcodeRow.cvtWD (fd : Reg) (fs : Reg) : OpcodeRow.Statement (.cvtWD fd fs) := rType_op_rs_funct _ _ _ _ _ _

theorem OpcodeRow.cFS (fs : Reg) (ft : Reg) : OpcodeRow.Statement (.cFS fs ft) := rType_op_rs_funct _ _ _ _ _ _

theorem OpcodeRow.cFD (fs : Reg) (ft : Reg) : OpcodeRow.Statement (.cFD fs ft) := rType_op_rs_funct _ _ _ _ _ _

theorem OpcodeRow.cUnS (fs : Reg) (ft : Reg) : OpcodeRow.Statement (.cUnS fs ft) := rType_op_rs_funct _ _ _ _ _ _

theorem OpcodeRow.cUnD (fs : Reg) (ft : Reg) : OpcodeRow.Statement (.cUnD fs ft) := rType_op_rs_funct _ _ _ _ _ _

theorem OpcodeRow.cEqS (fs : Reg) (ft : Reg) : OpcodeRow.Statement (.cEqS fs ft) := rType_op_rs_funct _ _ _ _ _ _

theorem OpcodeRow.cEqD (fs : Reg) (ft : Reg) : OpcodeRow.Statement (.cEqD fs ft) := rType_op_rs_funct _ _ _ _ _ _

theorem OpcodeRow.cUeqS (fs : Reg) (ft : Reg) : OpcodeRow.Statement (.cUeqS fs ft) := rType_op_rs_funct _ _ _ _ _ _

theorem OpcodeRow.cUeqD (fs : Reg) (ft : Reg) : OpcodeRow.Statement (.cUeqD fs ft) := rType_op_rs_funct _ _ _ _ _ _

theorem OpcodeRow.cOltS (fs : Reg) (ft : Reg) : OpcodeRow.Statement (.cOltS fs ft) := rType_op_rs_funct _ _ _ _ _ _

theorem OpcodeRow.cOltD (fs : Reg) (ft : Reg) : OpcodeRow.Statement (.cOltD fs ft) := rType_op_rs_funct _ _ _ _ _ _

theorem OpcodeRow.cUltS (fs : Reg) (ft : Reg) : OpcodeRow.Statement (.cUltS fs ft) := rType_op_rs_funct _ _ _ _ _ _

theorem OpcodeRow.cUltD (fs : Reg) (ft : Reg) : OpcodeRow.Statement (.cUltD fs ft) := rType_op_rs_funct _ _ _ _ _ _

theorem OpcodeRow.cOleS (fs : Reg) (ft : Reg) : OpcodeRow.Statement (.cOleS fs ft) := rType_op_rs_funct _ _ _ _ _ _

theorem OpcodeRow.cOleD (fs : Reg) (ft : Reg) : OpcodeRow.Statement (.cOleD fs ft) := rType_op_rs_funct _ _ _ _ _ _

theorem OpcodeRow.cUleS (fs : Reg) (ft : Reg) : OpcodeRow.Statement (.cUleS fs ft) := rType_op_rs_funct _ _ _ _ _ _

theorem OpcodeRow.cUleD (fs : Reg) (ft : Reg) : OpcodeRow.Statement (.cUleD fs ft) := rType_op_rs_funct _ _ _ _ _ _

theorem OpcodeRow.cSfS (fs : Reg) (ft : Reg) : OpcodeRow.Statement (.cSfS fs ft) := rType_op_rs_funct _ _ _ _ _ _

theorem OpcodeRow.cSfD (fs : Reg) (ft : Reg) : OpcodeRow.Statement (.cSfD fs ft) := rType_op_rs_funct _ _ _ _ _ _

theorem OpcodeRow.cNgleS (fs : Reg) (ft : Reg) : OpcodeRow.Statement (.cNgleS fs ft) := rType_op_rs_funct _ _ _ _ _ _

theorem OpcodeRow.cNgleD (fs : Reg) (ft : Reg) : OpcodeRow.Statement (.cNgleD fs ft) := rType_op_rs_funct _ _ _ _ _ _

theorem OpcodeRow.cSeqS (fs : Reg) (ft : Reg) : OpcodeRow.Statement (.cSeqS fs ft) := rType_op_rs_funct _ _ _ _ _ _

theorem OpcodeRow.cSeqD (fs : Reg) (ft : Reg) : OpcodeRow.Statement (.cSeqD fs ft) := rType_op_rs_funct _ _ _ _ _ _

theorem OpcodeRow.cNglS (fs : Reg) (ft : Reg) : OpcodeRow.Statement (.cNglS fs ft) := rType_op_rs_funct _ _ _ _ _ _

theorem OpcodeRow.cNglD (fs : Reg) (ft : Reg) : OpcodeRow.Statement (.cNglD fs ft) := rType_op_rs_funct _ _ _ _ _ _

theorem OpcodeRow.cLtS (fs : Reg) (ft : Reg) : OpcodeRow.Statement (.cLtS fs ft) := rType_op_rs_funct _ _ _ _ _ _

theorem OpcodeRow.cLtD (fs : Reg) (ft : Reg) : OpcodeRow.Statement (.cLtD fs ft) := rType_op_rs_funct _ _ _ _ _ _

theorem OpcodeRow.cNgeS (fs : Reg) (ft : Reg) : OpcodeRow.Statement (.cNgeS fs ft) := rType_op_rs_funct _ _ _ _ _ _

theorem OpcodeRow.cNgeD (fs : Reg) (ft : Reg) : OpcodeRow.Statement (.cNgeD fs ft) := rType_op_rs_funct _ _ _ _ _ _

theorem OpcodeRow.cLeS (fs : Reg) (ft : Reg) : OpcodeRow.Statement (.cLeS fs ft) := rType_op_rs_funct _ _ _ _ _ _

theorem OpcodeRow.cLeD (fs : Reg) (ft : Reg) : OpcodeRow.Statement (.cLeD fs ft) := rType_op_rs_funct _ _ _ _ _ _

theorem OpcodeRow.cNgtS (fs : Reg) (ft : Reg) : OpcodeRow.Statement (.cNgtS fs ft) := rType_op_rs_funct _ _ _ _ _ _

theorem OpcodeRow.cNgtD (fs : Reg) (ft : Reg) : OpcodeRow.Statement (.cNgtD fs ft) := rType_op_rs_funct _ _ _ _ _ _

end Sys2Proof.Laws
end

