-- ==== Sys2Proof/Tests/Slice0.lean ====
section
/-! SUPPORT. Tests: well-formedness, decoding of words written out from the spec's encodings, single steps with the
spec's example values, and a state that meets the hypotheses of each statement of
Sys2Proof/Certificates/Slice0/Obligations.lean. -/

namespace Sys2Proof.Tests

set_option Elab.async false

open Sys2Proof Sys2Proof.Machine

/-! ## Well-formedness (44_branch_jump.md R302, R312, R313, R317, 46_coprocessor_fpa.md R376, R428, R429) -/

theorem test_wellformed_accepts :
    ∀ i ∈ [Instr.jalr 31 25, .bltzal 8 4, .bgezal 0 4, .addS 0 2 4, .cvtDW 0 2, .cEqD 0 2, .cfc1 8 0, .ctc1 8 31,
      .add 8 9 10], WellFormed i = true := by decide

theorem test_wellformed_refuses_jalr_same : WellFormed (.jalr 8 8) = false := by decide
theorem test_wellformed_refuses_link_source :
    ∀ i ∈ [Instr.bltzal 31 4, .bgezal 31 4], WellFormed i = false := by decide
theorem test_wellformed_refuses_odd_fp :
    ∀ i ∈ [Instr.addS 1 2 4, .mulD 0 3 4, .divD 0 2 5, .absS 0 1, .negD 1 0, .movS 1 2, .cvtWD 0 3, .cLtS 1 2,
      .cNgtD 0 3], WellFormed i = false := by decide
theorem test_wellformed_refuses_undefined_fcr :
    ∀ i ∈ [Instr.cfc1 8 30, .ctc1 8 1], WellFormed i = false := by decide

/-! ## Decoding (30_encoding.md R168-R174; the words are the example words of the instructions' rules) -/

/-- Every pair is a word and the instruction it stands for. -/
abbrev Decodes (rows : List (Nat × Instr)) : Prop := ∀ p ∈ rows, decodeTableWord 32 p.1 = some p.2

theorem test_decode_alu : Decodes
    [(0x012A4020, .add 8 9 10), (0x012A4021, .addu 8 9 10), (0x012A4022, .sub 8 9 10), (0x012A4023, .subu 8 9 10),
     (0x012A4024, .and 8 9 10), (0x012A4025, .or 8 9 10), (0x012A4026, .xor 8 9 10), (0x012A4027, .nor 8 9 10),
     (0x012A402A, .slt 8 9 10), (0x012A402B, .sltu 8 9 10), (0x2128FFFF, .addi 8 9 0xFFFF),
     (0x27BDFFE8, .addiu 29 29 0xFFE8), (0x2928FFFF, .slti 8 9 0xFFFF), (0x2D28FFFF, .sltiu 8 9 0xFFFF),
     (0x3128FF00, .andi 8 9 0xFF00), (0x3528FF00, .ori 8 9 0xFF00), (0x3928FFFF, .xori 8 9 0xFFFF),
     (0x3C081234, .lui 8 0x1234)] := by decide

theorem test_decode_shift : Decodes
    [(0x00000000, .sll 0 0 0), (0x000947C0, .sll 8 9 31), (0x00094102, .srl 8 9 4), (0x00094103, .sra 8 9 4),
     (0x01494004, .sllv 8 9 10), (0x01494006, .srlv 8 9 10), (0x01494007, .srav 8 9 10)] := by decide

theorem test_decode_muldiv : Decodes
    [(0x012A0018, .mult 9 10), (0x012A0019, .multu 9 10), (0x012A001A, .div 9 10), (0x012A001B, .divu 9 10),
     (0x00004010, .mfhi 8), (0x00004012, .mflo 8), (0x01200011, .mthi 9), (0x01200013, .mtlo 9)] := by decide

theorem test_decode_loadstore : Decodes
    [(0x81280000, .lb 8 0 9), (0x91280000, .lbu 8 0 9), (0x85280002, .lh 8 2 9), (0x95280002, .lhu 8 2 9),
     (0x8FA8FFFC, .lw 8 0xFFFC 29), (0x88180001, .lwl 24 1 0), (0x98180004, .lwr 24 4 0), (0xA1280000, .sb 8 0 9),
     (0xA5280002, .sh 8 2 9), (0xAD280004, .sw 8 4 9), (0xA8180001, .swl 24 1 0), (0xB8180004, .swr 24 4 0)] := by
  decide

theorem test_decode_branch : Decodes
    [(0x11090003, .beq 8 9 3), (0x1509FFFF, .bne 8 9 0xFFFF), (0x19000002, .blez 8 2), (0x1D000002, .bgtz 8 2),
     (0x05000002, .bltz 8 2), (0x05010002, .bgez 8 2), (0x05100004, .bltzal 8 4), (0x04110004, .bgezal 0 4),
     (0x08000040, .j 0x40), (0x0C040010, .jal 0x40010), (0x03E00008, .jr 31), (0x01204009, .jalr 8 9),
     (0x41000002, .bc0f 2), (0x41010002, .bc0t 2), (0x45000005, .bc1f 5), (0x45010005, .bc1t 5), (0x49000002, .bc2f 2),
     (0x49010002, .bc2t 2), (0x4D000002, .bc3f 2), (0x4D010002, .bc3t 2)] := by decide

theorem test_decode_system : Decodes
    [(0x0000000C, .syscall 0), (0x0000000D, .break_ 0), (0x000001CD, .break_ 7), (0x401A7000, .mfc0 26 14),
     (0x40886000, .mtc0 8 12), (0x40480800, .cfc0 8 1), (0x40C80800, .ctc0 8 1), (0x42000001, .tlbr),
     (0x42000002, .tlbwi), (0x42000006, .tlbwr), (0x42000008, .tlbp), (0x42000010, .rfe), (0xC1220018, .lwc0 2 24 9),
     (0xE1220018, .swc0 2 24 9)] := by decide

theorem test_decode_coprocessor : Decodes
    [(0x48081000, .mfc2 8 2), (0x48480800, .cfc2 8 1), (0x48881000, .mtc2 8 2), (0x48C80800, .ctc2 8 1),
     (0x4A000123, .cop2 0x123), (0x4C081000, .mfc3 8 2), (0x4C480800, .cfc3 8 1), (0x4C881000, .mtc3 8 2),
     (0x4CC80800, .ctc3 8 1), (0x4E000123, .cop3 0x123), (0xC9220018, .lwc2 2 24 9), (0xCD220018, .lwc3 2 24 9),
     (0xE9220018, .swc2 2 24 9), (0xED220018, .swc3 2 24 9)] := by decide

theorem test_decode_fp : Decodes
    [(0x46041000, .addS 0 2 4), (0x46241000, .addD 0 2 4), (0x46041001, .subS 0 2 4), (0x46241001, .subD 0 2 4),
     (0x46041002, .mulS 0 2 4), (0x46241002, .mulD 0 2 4), (0x46041003, .divS 0 2 4), (0x46241003, .divD 0 2 4),
     (0x46001005, .absS 0 2), (0x46201005, .absD 0 2), (0x46001006, .movS 0 2), (0x46201006, .movD 0 2),
     (0x46001007, .negS 0 2), (0x46201007, .negD 0 2), (0x46201020, .cvtSD 0 2), (0x46801020, .cvtSW 0 2),
     (0x46001021, .cvtDS 0 2), (0x46801021, .cvtDW 0 2), (0x46001024, .cvtWS 0 2), (0x46201024, .cvtWD 0 2),
     (0x44081000, .mfc1 8 2), (0x44881000, .mtc1 8 2), (0x4448F800, .cfc1 8 31), (0x44C8F800, .ctc1 8 31),
     (0xC5220018, .lwc1 2 24 9), (0xE5220018, .swc1 2 24 9)] := by decide

theorem test_decode_compare_single : Decodes
    [(0x46020030, .cFS 0 2), (0x46020031, .cUnS 0 2), (0x46020032, .cEqS 0 2), (0x46020033, .cUeqS 0 2),
     (0x46020034, .cOltS 0 2), (0x46020035, .cUltS 0 2), (0x46020036, .cOleS 0 2), (0x46020037, .cUleS 0 2),
     (0x46020038, .cSfS 0 2), (0x46020039, .cNgleS 0 2), (0x4602003A, .cSeqS 0 2), (0x4602003B, .cNglS 0 2),
     (0x4602003C, .cLtS 0 2), (0x4602003D, .cNgeS 0 2), (0x4602003E, .cLeS 0 2), (0x4602003F, .cNgtS 0 2)] := by
  decide

theorem test_decode_compare_double : Decodes
    [(0x46220030, .cFD 0 2), (0x46220031, .cUnD 0 2), (0x46220032, .cEqD 0 2), (0x46220033, .cUeqD 0 2),
     (0x46220034, .cOltD 0 2), (0x46220035, .cUltD 0 2), (0x46220036, .cOleD 0 2), (0x46220037, .cUleD 0 2),
     (0x46220038, .cSfD 0 2), (0x46220039, .cNgleD 0 2), (0x4622003A, .cSeqD 0 2), (0x4622003B, .cNglD 0 2),
     (0x4622003C, .cLtD 0 2), (0x4622003D, .cNgeD 0 2), (0x4622003E, .cLeD 0 2), (0x4622003F, .cNgtD 0 2)] := by
  decide

/-- MIPS-II words and unassigned sub-opcodes are refused (R175). -/
theorem test_decode_refuses : ∀ w ∈ [0xC0000000 - 0x10000000, 0x0000000F, 0x04020000, 0x50000000, 0x70000000, 0x40A00000,
    0x42000018, 0x46000004], decodeTableWord 32 w = none := by decide

/-! ## Single instructions, with the spec's example values -/

/-- The state an instruction leaves, when it goes on. -/
def after (i : Instr) (s : State) : Option State :=
  match exec i s with
  | .next t => some t
  | .fault _ => none
  | .refused _ => none

/-- The reset state with `$9` and `$10` set, and `$8` marked. -/
def regs (a b : Word) : State := ((State.reset.setGpr 9 a).setGpr 10 b).setGpr 8 0xDEADBEEF

/-- Each row: `$9`, `$10`, the instruction, `$8` after it. -/
abbrev Gives (rows : List (Word × Word × Instr × Word)) : Prop :=
  ∀ p ∈ rows, (after p.2.2.1 (regs p.1 p.2.1)).map (·.gprAt 8) = some p.2.2.2

/-- 40_alu.md R203-R206, R209-R212, R217, R218. -/
theorem test_register_arithmetic : Gives
    [(5, 7, .add 8 9 10, 12), (0xFFFFFFFF, 1, .add 8 9 10, 0), (0xFFFFFFFF, 2, .addu 8 9 10, 1),
     (0x7FFFFFFF, 1, .addu 8 9 10, 0x80000000), (5, 7, .sub 8 9 10, 0xFFFFFFFE),
     (0x80000000, 1, .subu 8 9 10, 0x7FFFFFFF), (0xFF00FF00, 0x0FF00FF0, .and 8 9 10, 0x0F000F00),
     (0xFF00FF00, 0x0FF00FF0, .or 8 9 10, 0xFFF0FFF0), (0xFF00FF00, 0x0FF00FF0, .xor 8 9 10, 0xF0F0F0F0),
     (0xFF00FF00, 0x0FF00FF0, .nor 8 9 10, 0x000F000F), (0x80000000, 0x7FFFFFFF, .slt 8 9 10, 1),
     (0x80000000, 0x7FFFFFFF, .sltu 8 9 10, 0)] := by decide +kernel

/-- 40_alu.md R207, R208, R213-R216, R219, R220. -/
theorem test_immediate_arithmetic : Gives
    [(10, 0, .addi 8 9 0xFFFF, 9), (0, 0, .addiu 8 9 0xFFFF, 0xFFFFFFFF), (0x12345678, 0, .andi 8 9 0xFF00, 0x5600),
     (0x12345678, 0, .ori 8 9 0xFF00, 0x1234FF78), (0x12345678, 0, .xori 8 9 0xFFFF, 0x1234A987),
     (0, 0, .lui 8 0x1234, 0x12340000), (0xFFFFFFFE, 0, .slti 8 9 0xFFFF, 1), (0, 0, .slti 8 9 0xFFFF, 0),
     (0x80000000, 0, .sltiu 8 9 0xFFFF, 1), (0xFFFFFFFF, 0, .sltiu 8 9 0xFFFF, 0)] := by decide +kernel

/-- 41_shift.md R231-R236. -/
theorem test_shifts : Gives
    [(0xF000000F, 0, .sll 8 9 4, 0xF0), (3, 0, .sll 8 9 31, 0x80000000), (0xF000000F, 0, .srl 8 9 4, 0x0F000000),
     (0xF000000F, 0, .sra 8 9 4, 0xFF000000), (0x80000000, 0, .sra 8 9 31, 0xFFFFFFFF), (1, 36, .sllv 8 9 10, 16),
     (0x80000000, 31, .srlv 8 9 10, 1), (0x80000000, 31, .srav 8 9 10, 0xFFFFFFFF),
     (0x80000000, 32, .srav 8 9 10, 0x80000000)] := by decide +kernel

/-- Each row: `$9`, `$10`, the instruction, HI and LO after it. -/
abbrev GivesHiLo (rows : List (Word × Word × Instr × Word × Word)) : Prop :=
  ∀ p ∈ rows, (after p.2.2.1 (regs p.1 p.2.1)).map (fun t => (t.hi, t.lo)) = some p.2.2.2

/-- 42_muldiv.md R243-R246, R248. -/
theorem test_multiply_divide : GivesHiLo
    [(0x80000000, 0x80000000, .mult 9 10, 0x40000000, 0), (0xFFFFFFFE, 3, .mult 9 10, 0xFFFFFFFF, 0xFFFFFFFA),
     (0xFFFFFFFF, 0xFFFFFFFF, .multu 9 10, 0xFFFFFFFE, 1), (0xFFFFFFFE, 3, .multu 9 10, 2, 0xFFFFFFFA),
     (0xFFFFFFF9, 2, .div 9 10, 0xFFFFFFFF, 0xFFFFFFFD), (7, 0xFFFFFFFE, .div 9 10, 1, 0xFFFFFFFD),
     (0xFFFFFFFF, 0x10, .divu 9 10, 0xF, 0x0FFFFFFF)] := by decide +kernel

/-- 42_muldiv.md R249-R252. -/
theorem test_moves_of_hi_lo :
    Gives [(0, 0, .mfhi 8, 0), (0, 0, .mflo 8, 0)] ∧
    GivesHiLo [(7, 0, .mthi 9, 7, 0), (7, 0, .mtlo 9, 0, 7)] := by decide +kernel

/-! ### Exceptions -/

/-- EPC and `pc` after an instruction that raises (Cause has the open field CE in it). -/
def entry (i : Instr) (s : State) : Option (Word × Word) :=
  (after i s).map fun t => (t.cp0.epc, t.pc)

/-- A kernel-mode state at `pc` with everything usable and BEV clear. -/
def open_ (pc : Word) : State :=
  { State.reset with pc := pc, npc := pc + 4, cp0 := { State.reset.cp0 with sr := 0xF0000000 } }

/-- The same in user mode with no coprocessor usable. -/
def user (pc : Word) : State :=
  { State.reset with pc := pc, npc := pc + 4, cp0 := { State.reset.cp0 with sr := 0x00000002 } }

/-- 40_alu.md R203, R205, R207: overflow, whatever the destination; the destination is not written. -/
theorem test_overflow :
    (∀ i ∈ [Instr.add 8 9 10, .add 0 9 10], entry i (regs 0x7FFFFFFF 1) = some (0xBFC00000, 0xBFC00180)) ∧
    entry (.sub 8 9 10) (regs 0 0x80000000) = some (0xBFC00000, 0xBFC00180) ∧
    Gives [(0x80000000, 0, .addi 8 9 0xFFFF, 0xDEADBEEF)] := by decide +kernel

/-- 45_system_cp0_tlb.md R330, R331, R339, R360. -/
theorem test_trap_instructions :
    Raises (open_ 0) (exec (.syscall 0) (open_ 0)) .sys ∧ Raises (open_ 0) (exec (.break_ 7) (open_ 0)) .bp ∧
    Raises (open_ 0) (exec (.lwc0 2 24 9) (open_ 0)) .ri ∧ Raises (open_ 0) (exec (.cfc0 8 1) (open_ 0)) .ri :=
  ⟨rfl, rfl, rfl, rfl⟩

/-- 60_exceptions.md R532: the general vector, BEV clear. -/
theorem test_trap_vector :
    ∀ i ∈ [Instr.syscall 0, .break_ 7, .cfc0 8 1, .ctc0 8 1, .lwc0 2 24 9, .swc0 2 24 9, .mfc3 8 2, .swc3 2 24 9],
      entry i (open_ 0x80001000) = some (0x80001000, 0x80000080) := by decide +kernel

/-- 60_exceptions.md R530: in a delay slot EPC is the branch and BD is set. -/
theorem test_exception_in_slot :
    (after (.mfc0 8 12) { user 0x1000 with inDelay := true }).map
      (fun t => (t.cp0.epc, t.cp0.cause, t.inDelay)) = some (0xFFC, 0x8000002C, false) := by decide +kernel

/-- 45_system_cp0_tlb.md R352: CpU with the coprocessor's number. -/
theorem test_unusable :
    ∀ p ∈ [(Instr.mfc0 8 12, 0#2), (.rfe, 0), (.tlbwi, 0), (.cfc0 8 1, 0), (.addS 0 2 4, 1), (.lwc1 2 25 9, 1),
        (.bc1t 5, 1), (.mtc2 8 2, 2), (.swc2 2 24 9, 2), (.cop3 1, 3), (.lwc3 2 24 9, 3)],
      (after p.1 (user 0x1000)).map (fun t => (t.cp0.cause.extractLsb' 2 5, t.cp0.cause.extractLsb' 28 2)) =
        some (11, p.2) := by decide +kernel

/-! ### Branches and jumps -/

/-- Each row: `$8`, the instruction at 0x80002000, where the instruction after the slot is. -/
abbrev Goes (rows : List (Word × Instr × Word)) : Prop :=
  ∀ p ∈ rows, (after p.2.1 ((open_ 0x80002000).setGpr 8 p.1)).map (fun t => (t.pc, t.npc, t.inDelay)) =
    some (0x80002004, p.2.2, true)

/-- 44_branch_jump.md R306-R313. -/
theorem test_branches : Goes
    [(0, .beq 8 9 3, 0x80002010), (1, .beq 8 9 3, 0x80002008), (0, .beq 0 0 0xFFFF, 0x80002000),
     (1, .bne 8 9 0xFFFF, 0x80002000), (0, .blez 8 2, 0x8000200C), (1, .blez 8 2, 0x80002008),
     (0, .bgtz 8 2, 0x80002008), (0x7FFFFFFF, .bgtz 8 2, 0x8000200C), (0x80000000, .bltz 8 2, 0x8000200C),
     (0, .bgez 8 2, 0x8000200C), (0x80000000, .bltzal 8 4, 0x80002014), (0, .bgezal 8 4, 0x80002014)] := by
  decide +kernel

/-- 44_branch_jump.md R314-R317. -/
theorem test_jumps : Goes
    [(0, .j 0x40, 0x80000100), (0, .jal 0x40010, 0x80100040), (0x80003000, .jr 8, 0x80003000),
     (0x80003001, .jalr 31 8, 0x80003001)] := by decide +kernel

/-- 44_branch_jump.md R303. -/
theorem test_links :
    ∀ i ∈ [Instr.jal 0x40010, .jalr 31 8, .bgezal 0 4, .bltzal 0 4],
      (after i (open_ 0x80002000)).map (·.gprAt 31) = some 0x80002008 := by decide +kernel

/-- 44_branch_jump.md R318, 46_coprocessor_fpa.md R427: the pins read 0, FCR31.C is 0. -/
theorem test_coprocessor_branches : Goes
    [(0, .bc0f 2, 0x8000200C), (0, .bc0t 2, 0x80002008), (0, .bc1f 5, 0x80002018), (0, .bc1t 5, 0x80002008),
     (0, .bc2f 2, 0x8000200C), (0, .bc2t 2, 0x80002008), (0, .bc3f 2, 0x8000200C), (0, .bc3t 2, 0x80002008)] := by
  decide +kernel

/-! ### Loads and stores, big-endian (kseg1 address 0xA0001000 is physical 0x1000) -/

/-- Memory 0x1000.. holds 11 22 33 44 80 01 FE 00; `$9` is 0xA0001000, `$8` is 0xAABBCCDD. -/
def withMemory : State :=
  { ((open_ 0x80002000).setGpr 9 0xA0001000).setGpr 8 0xAABBCCDD with
    mem := [⟨0x1000, 0x11⟩, ⟨0x1001, 0x22⟩, ⟨0x1002, 0x33⟩, ⟨0x1003, 0x44⟩, ⟨0x1004, 0x80⟩, ⟨0x1005, 0x01⟩,
      ⟨0x1006, 0xFE⟩] }

/-- 43_loadstore.md R265-R269, R275-R277. -/
theorem test_loads :
    ∀ p ∈ [(Instr.lw 8 0 9, (0x11223344 : Word)), (.lb 8 6 9, 0xFFFFFFFE), (.lbu 8 6 9, 0xFE), (.lh 8 4 9, 0xFFFF8001),
        (.lhu 8 4 9, 0x00008001), (.lwl 8 1 9, 0x223344DD), (.lwl 8 0 9, 0x11223344), (.lwr 8 1 9, 0xAABB1122),
        (.lwr 8 3 9, 0x11223344)],
      (after p.1 withMemory).map (·.gprAt 8) = some p.2 := by decide +kernel

/-- The four bytes from physical 0x1000 once the write buffer is empty. -/
def stored (i : Instr) : Option (List Byte) :=
  (after i withMemory).map fun t => [0x1000, 0x1001, 0x1002, 0x1003].map t.settledByte

/-- 43_loadstore.md R270-R272, R278, R279. -/
theorem test_stores :
    ∀ p ∈ [(Instr.sw 8 0 9, ([0xAA, 0xBB, 0xCC, 0xDD] : List Byte)), (.sb 8 1 9, [0x11, 0xDD, 0x33, 0x44]),
        (.sh 8 2 9, [0x11, 0x22, 0xCC, 0xDD]), (.swl 8 1 9, [0x11, 0xAA, 0xBB, 0xCC]),
        (.swr 8 1 9, [0xCC, 0xDD, 0x33, 0x44]), (.swl 8 0 9, [0xAA, 0xBB, 0xCC, 0xDD]),
        (.swc1 2 0 9, [0, 0, 0, 0])],
      stored p.1 = some p.2 := by decide +kernel

/-- 20_memory.md R110: the vector, and BadVaddr the full address. -/
theorem test_misaligned :
    ∀ p ∈ [(Instr.lh 8 1 9, (0xA0001001 : Word)), (.lhu 8 3 9, 0xA0001003), (.lw 8 2 9, 0xA0001002),
        (.lwc1 2 1 9, 0xA0001001), (.lwc2 2 2 9, 0xA0001002), (.lwc3 2 3 9, 0xA0001003), (.sh 8 1 9, 0xA0001001),
        (.sw 8 1 9, 0xA0001001), (.swc1 2 1 9, 0xA0001001), (.swc2 2 2 9, 0xA0001002)],
      (after p.1 withMemory).map (fun t => (t.cp0.badVaddr, t.cp0.epc, t.pc)) = some (p.2, 0x80002000, 0x80000080) := by
  decide +kernel

/-- A TLB refill on a kuseg address goes to its own vector, and loads EntryHi and Context (60_exceptions.md R532, R534). -/
theorem test_refill :
    (after (.lw 8 0x234 0) { withMemory with cp0 := { withMemory.cp0 with context := 0xFFE00000 } }).map
      (fun t => (t.pc, t.cp0.badVaddr, t.cp0.entryHi, t.cp0.context)) = some (0x80000000, 0x234, 0, 0xFFE00000) := by decide +kernel

/-! ### Coprocessor 0 and the TLB -/

/-- 45_system_cp0_tlb.md R336, R337, R341. -/
theorem test_cp0_moves :
    (after (.mfc0 8 15) (open_ 0)).map (·.gprAt 8) = some 0x300 ∧
    (after (.mtc0 8 12) ((open_ 0).setGpr 8 0xFFFFFFFF)).map (·.cp0.sr) = some 0xF247FF3F ∧
    (after (.mtc0 8 13) ((open_ 0).setGpr 8 0xFFFFFFFF)).map (·.cp0.cause) = some 0x300 ∧
    (after .rfe { open_ 0 with cp0 := { (open_ 0).cp0 with sr := 0x1000002C } }).map (·.cp0.sr) = some 0x1000002B := by
  decide +kernel

/-- A state whose TLB entry 5 maps page 3 for every address space, and whose EntryHi names the page. -/
def withTlb : State :=
  { open_ 0x80002000 with
    tlb := (State.reset).tlb.set 5 ⟨0x3000, 0x7F00⟩
    cp0 := { (open_ 0).cp0 with index := 0x500, entryHi := 0x3000, entryLo := 0x9000 } }

/-- 45_system_cp0_tlb.md R344-R347. -/
theorem test_tlb_instructions :
    (after .tlbp withTlb).map (·.cp0.index) = some 0x500 ∧
    (after .tlbp (open_ 0)).map (·.cp0.index) = some 0x80000000 ∧
    (after .tlbr withTlb).map (fun t => (t.cp0.entryHi, t.cp0.entryLo)) = some (0x3000, 0x7F00) ∧
    (after .tlbwi withTlb).map (fun t => t.tlb[5]) = some ⟨0x3000, 0x9000⟩ := by decide +kernel

/-- 20_memory.md R114-R117: page 3 maps to frame 7, uncached, writable. -/
theorem test_translate :
    withTlb.translate 0x3ABC true = .ok 0x7ABC true ∧ withTlb.translate 0x4000 false = .exc (.tlbl 0x4000 true) ∧
    withTlb.translate 0x80001234 false = .ok 0x1234 false ∧ withTlb.translate 0xBFC00000 false = .ok 0x1FC00000 true ∧
    (user 0).translate 0x80000000 true = .exc (.ades 0x80000000) := by decide +kernel

/-! ### Floating point (46_coprocessor_fpa.md, the examples of R385-R434) -/

/-- `$f2` = `a1:a0`, `$f4` = `b1:b0`, FCR31 = `f`. -/
def fp (f a0 a1 b0 b1 : Word) : State :=
  { ((((open_ 0).setFpr 2 a0).setFpr 3 a1).setFpr 4 b0).setFpr 5 b1 with fcr31 := f }

/-- Each row: RM, the operands, the instruction, `$f0` and FCR31 after it. -/
abbrev GivesSingle (rows : List (Word × Word × Word × Instr × Word × Word)) : Prop :=
  ∀ p ∈ rows, (after p.2.2.2.1 (fp p.1 p.2.1 0 p.2.2.1 0)).map (fun t => (t.fprAt 0, t.fcr31)) = some p.2.2.2.2

theorem test_fp_single : GivesSingle
    [(0, 0x3FC00000, 0x40100000, .addS 0 2 4, 0x40700000, 0), (0, 0x3FC00000, 0x40100000, .subS 0 2 4, 0xBF400000, 0),
     (0, 0x7F7FFFFF, 0x40000000, .mulS 0 2 4, 0x7F800000, 0x5014), (1, 0x7F7FFFFF, 0x40000000, .mulS 0 2 4, 0x7F7FFFFF, 0x5015),
     (0, 0x3F800000, 0x40400000, .divS 0 2 4, 0x3EAAAAAB, 0x1004), (1, 0x3F800000, 0x40400000, .divS 0 2 4, 0x3EAAAAAA, 0x1005),
     (0, 0xBF800000, 0, .absS 0 2, 0x3F800000, 0), (0, 0, 0, .negS 0 2, 0x80000000, 0),
     (0, 0x7FC12345, 0, .movS 0 2, 0x7FC12345, 0), (0, 0x058B1140, 0, .cvtSW 0 2, 0x4CB16228, 0),
     (2, 0x01000001, 0, .cvtSW 0 2, 0x4B800001, 0x1006), (0, 0x40200000, 0, .cvtWS 0 2, 2, 0x1004),
     (2, 0x40200000, 0, .cvtWS 0 2, 3, 0x1006)] := by decide +kernel

/-- Each row: RM, the operands, the instruction, the double in `$f0` and FCR31 after it. -/
abbrev GivesDouble (rows : List (Word × BitVec 64 × BitVec 64 × Instr × BitVec 64 × Word)) : Prop :=
  ∀ p ∈ rows, (after p.2.2.2.1 (fp p.1 (p.2.1.extractLsb' 0 32) (p.2.1.extractLsb' 32 32) (p.2.2.1.extractLsb' 0 32)
    (p.2.2.1.extractLsb' 32 32))).map (fun t => (t.fprAt 1 ++ t.fprAt 0, t.fcr31)) = some p.2.2.2.2

theorem test_fp_double : GivesDouble
    [(0, 0x3FF0000000000000, 0x3CA0000000000000, .addD 0 2 4, 0x3FF0000000000000, 0x1004),
     (2, 0x3FF0000000000000, 0x3CA0000000000000, .addD 0 2 4, 0x3FF0000000000001, 0x1006),
     (0, 0x3FF8000000000000, 0x3FF8000000000000, .subD 0 2 4, 0, 0),
     (0, 0x3FF8000000000000, 0x4000000000000000, .mulD 0 2 4, 0x4008000000000000, 0),
     (0, 0x3FF0000000000000, 0x4008000000000000, .divD 0 2 4, 0x3FD5555555555555, 0x1004),
     (2, 0x3FF0000000000000, 0x4008000000000000, .divD 0 2 4, 0x3FD5555555555556, 0x1006),
     (0, 0xBFF0000000000000, 0, .absD 0 2, 0x3FF0000000000000, 0),
     (0, 0xBFF0000000000000, 0, .negD 0 2, 0x3FF0000000000000, 0),
     (0, 0x7FF8000012345678, 0, .movD 0 2, 0x7FF8000012345678, 0),
     (0, 0x000000003DCCCCCD, 0, .cvtDS 0 2, 0x3FB99999A0000000, 0),
     (0, 0x00000000FFFFFFFF, 0, .cvtDW 0 2, 0xBFF0000000000000, 0)] := by decide +kernel

/-- R401, R406. -/
theorem test_fp_narrowing :
    (after (.cvtSD 0 2) (fp 2 0x10000000 0x3FF00000 0 0)).map (fun t => (t.fprAt 0, t.fcr31)) = some (0x3F800001, 0x1006) ∧
    (after (.cvtWD 0 2) (fp 3 0 0xBFE00000 0 0)).map (fun t => (t.fprAt 0, t.fcr31)) = some (0xFFFFFFFF, 0x1007) ∧
    (after (.cvtWD 0 2) (fp 0 0 0x41962C45 0 0)).map (fun t => (t.fprAt 0, t.fcr31)) = some (93000000, 0) := by
  decide +kernel

/-- Each row: the operands, the instruction, FCR31.C after it (R410). -/
abbrev Compares (rows : List (Word × Word × Instr × Bool)) : Prop :=
  ∀ p ∈ rows, (after p.2.2.1 (fp 0 p.1 0 p.2.1 0)).map (fun t => t.fcr31.getLsbD 23) = some p.2.2.2

theorem test_fp_compare : Compares
    [(0x3F800000, 0x40000000, .cLtS 2 4, true), (0x40000000, 0x3F800000, .cLtS 2 4, false),
     (0, 0x80000000, .cEqS 2 4, true), (0x3F800000, 0x3F800000, .cLeS 2 4, true),
     (0x3F800000, 0x3F800000, .cFS 2 4, false),
     (0x3F800000, 0x40000000, .cNgtS 2 4, true), (0x3F800000, 0x40000000, .cUnS 2 4, false)] := by decide +kernel

/-- R428-R434: the moves and FCR31's mask. -/
theorem test_fp_moves :
    (after (.mfc1 8 2) (fp 0 0x12345678 0 0 0)).map (·.gprAt 8) = some 0x12345678 ∧
    (after (.mtc1 8 2) ((fp 0 0 0 0 0).setGpr 8 0x12345678)).map (·.fprAt 2) = some 0x12345678 ∧
    (after (.cfc1 8 0) (fp 0 0 0 0 0)).map (·.gprAt 8) = some 0x300 ∧
    (after (.ctc1 8 31) ((fp 0 0 0 0 0).setGpr 8 0xFFFFFFFF)).map (·.fcr31) = some 0x0083FFFF ∧
    (after (.lwc1 2 0 9) withMemory).map (·.fprAt 2) = some 0x11223344 := by
  decide +kernel

/-! ### The step -/

/-- A placed word is fetched and run. -/
theorem test_step_runs_placed_word :
    (match Sys2Proof.Machine.step (State.reset.withFetchWord 32 0x3C081234) with
      | .next t => some (t.gprAt 8, t.pc)
      | .fault _ => none
      | .refused _ => none) = some (0x12340000, 0xBFC00004) := by decide +kernel

/-- A word of no row raises RI at it (30_encoding.md R175). -/
theorem test_step_reserved_word :
    (match Sys2Proof.Machine.step (State.reset.withFetchWord 32 0x70000000) with
      | .next t => some (t.cp0.epc, t.pc)
      | .fault _ => none
      | .refused _ => none) = some (0xBFC00000, 0xBFC00180) := by decide +kernel

/-! ## Witnesses: for each statement with hypotheses, states and operands that meet them -/

/-- A part without the TLB and the FPA, and the R3041. -/
def basePart : Config := { Config.standard with member := .r3051, hasMmu := false, fcr0 := 0 }
def part3041 : Config := { basePart with member := .r3041, prid := 0x700 }

/-- A part in kernel mode at 0x80002000 with every coprocessor usable and BEV clear. -/
def onPart (c : Config) : State :=
  { State.resetOf c with pc := 0x80002000, npc := 0x80002004, cp0 := { resetCp0 c with sr := 0xF0000000 } }

/-- The status register replaced. -/
def withSr (s : State) (v : Word) : State := { s with cp0 := { s.cp0 with sr := v } }

/-- A register whose load is pending in the slot. -/
def withShadow (isLoad : Bool) : State :=
  { (open_ 0x80002000) with
    pipe := { Pipe.empty with gprShadow := some ⟨8, 1, isLoad⟩, fprShadow := some ⟨2, 1⟩ } }

/-- On a board with no regions every line is memory. -/
theorem lineIsMemory (s : State) (pa : Word) (h : s.cfg.regions = []) : LineIsMemory s pa := fun a _ =>
  ⟨.inl (by simp [regionKind, regionOf, h]), by simp [busError, regionOf, h]⟩

theorem test_witness_StepKeepsInvariant :
    MachineInv State.reset ∧ ∃ t, Sys2Proof.Machine.step State.reset = .next t := ⟨by decide +kernel, _, rfl⟩

theorem test_witness_DecodeFollowsOpcodeTable :
    (∃ i, decodeWord 0x012A4020 = .ok i) ∧
    (0x012A4020 : Word) &&& (opcodeRow (.add 0 0 0)).mask = (opcodeRow (.add 0 0 0)).value := ⟨⟨_, rfl⟩, by decide⟩

theorem test_witness_UnassignedWordsRaiseRI :
    (∃ op, decodeWord 0x70000000 = .error (.reservedOpcode op)) ∧
    (∃ f, decodeWord 0x0000000F = .error (.reservedFunct f)) ∧
    (∃ r, decodeWord 0x04020000 = .error (.reservedRegimm r)) ∧
    (∃ rs rt, decodeWord 0x40A00000 = .error (.reservedCopMove 0 rs rt)) ∧
    (∃ rs rt, decodeWord 0x4D020000 = .error (.reservedCopMove 3 rs rt)) ∧
    (∃ f, decodeWord 0x42000018 = .error (.reservedCop0Operation f)) ∧
    (open_ 0).usable 0 = true ∧ (user 0).usable 0 = false ∧ (open_ 0).usable 3 = true ∧ (user 0).usable 3 = false :=
  ⟨⟨_, rfl⟩, ⟨_, rfl⟩, ⟨_, rfl⟩, ⟨_, _, rfl⟩, ⟨_, _, rfl⟩, ⟨_, rfl⟩, rfl, rfl, rfl, rfl⟩

theorem test_witness_StepRunsDecodedInstruction :
    let s := State.reset
    s.events = [] ∧ s.halted = false ∧ s.interruptPending = false ∧ ∃ w t i, s.begin.fetch = .done w t ∧
      decodeWord w = .ok i := ⟨rfl, rfl, rfl, _, _, _, rfl, rfl⟩

/-- Uncached, a miss, a hit. -/
def fetchHit : State :=
  { open_ 0x80001004 with icache := [(0x100, ⟨true, 0, #v[1, 2, 3, 4]⟩)] }

theorem test_witness_FetchDeliversInstructionWord :
    (∃ pa held, State.reset.translateFetch State.reset.pc = (.ok pa true, held) ∧ LineIsMemory State.reset pa) ∧
    (∃ pa held, (open_ 0x80001004).translateFetch 0x80001004 = (.ok pa false, held) ∧
      (open_ 0x80001004).iHit pa = false ∧ LineIsMemory (open_ 0x80001004) pa) ∧
    (∃ pa held, fetchHit.translateFetch 0x80001004 = (.ok pa false, held) ∧ fetchHit.iHit pa = true ∧
      LineIsMemory fetchHit pa) ∧ State.reset.swapped = false ∧ fetchHit.swapped = false :=
  ⟨⟨_, _, rfl, lineIsMemory _ _ rfl⟩, ⟨_, _, rfl, by decide +kernel, lineIsMemory _ _ rfl⟩,
    ⟨_, _, rfl, by decide +kernel, lineIsMemory _ _ rfl⟩, rfl, rfl⟩

/-- All interrupts enabled, pin 5 asserted. -/
def interrupted : State := { withSr (open_ 0x80002000) 0xF000FF01 with pins := ⟨0b100000, 0⟩ }

theorem test_witness_InterruptTakenBeforeInstruction :
    (NoRecentMtc0 (onPart basePart) ∧ (onPart basePart).cfg.hasFpa = false) ∧
    (NoRecentMtc0 (open_ 0) ∧ (open_ 0).cfg.hasFpa = true ∧
      ((open_ 0).cp0.config.extractLsb' 26 3).toNat = 3) ∧
    (interrupted.events = [] ∧ interrupted.halted = false ∧ NoRecentMtc0 interrupted ∧
      interrupted.cp0.sr.getLsbD 0 = true ∧
      (interrupted.ipBits ||| (interrupted.cp0.cause &&& 0x300)) &&& interrupted.cp0.sr &&& 0xFF00 ≠ 0 ∧
      interrupted.pipe.hiloReads = []) ∧
    (let s := { interrupted with pins := ⟨0, 0⟩ }
     s.events = [] ∧ s.halted = false ∧ NoRecentMtc0 s ∧ s.cp0.sr.getLsbD 0 = true ∧
      (s.ipBits ||| (s.cp0.cause &&& 0x300)) &&& s.cp0.sr &&& 0xFF00 = 0) ∧
    (let s := withSr interrupted 0xF000FF00
     s.events = [] ∧ s.halted = false ∧ NoRecentMtc0 s ∧ s.cp0.sr.getLsbD 0 = false) := by decide +kernel

/-- Config.Halt set. -/
def standing (int : BitVec 6) : State :=
  { State.reset with cp0 := { State.reset.cp0 with config := 0x0E000000 }, pins := ⟨int, 0⟩ }

theorem test_witness_HaltWaitsForInterruptInput :
    ∀ int ∈ [0#6, 0b100000#6], (standing int).events = [] ∧ (standing int).cfg.hasConfig7181 = true ∧
      (standing int).cp0.config.getLsbD 25 = true ∧ (standing int).pins.int = int := by decide +kernel

theorem test_witness_WarmResetKeepsMostState :
    let s : State := { open_ 0x80002000 with
      events := [.reset (some 0) none], pipe := { Pipe.empty with gprLate := some ⟨8, 1, true⟩ } }
    (∃ d i rest, s.events = .reset d i :: rest ∧ d ≠ some 1 ∧ i ≠ some 0) ∧
      ∀ l, s.pipe.gprLate = some l → l.reg ≠ 9 :=
  ⟨⟨_, _, _, rfl, by decide, by decide⟩, by rintro l ⟨⟩; decide⟩

theorem test_witness_SourceOperandReads :
    (∃ l, (withShadow false).pipe.gprShadow = some l ∧ l.reg = 8 ∧ (8 : Reg) ≠ 0 ∧ l.reg ≠ 9) ∧
    (∃ l, (withShadow true).pipe.gprShadow = some l ∧ l.isLoad = true) ∧
    (∃ l, (withShadow false).pipe.gprShadow = some l ∧ l.reg = 8 ∧ l.isLoad = false) ∧
    ∃ l, (withShadow true).pipe.fprShadow = some l ∧ l.reg = 2 ∧ l.reg ≠ 3 :=
  ⟨⟨_, rfl, rfl, by decide, by decide⟩, ⟨_, rfl, rfl⟩, ⟨_, rfl, rfl, rfl⟩, ⟨_, rfl, rfl, by decide⟩⟩

/-- Both sides of each overflow condition, at its edge. -/
theorem test_witness_TrappingArithmetic :
    (let a := (regs 0x80000000 0xFFFFFFFF).src 9; let b := (regs 0x80000000 0xFFFFFFFF).src 10;
      a.msb = b.msb ∧ (a + b).msb ≠ a.msb) ∧
    (let a := (regs 0xC0000000 0xC0000000).src 9; let b := (regs 0xC0000000 0xC0000000).src 10;
      ¬ (a.msb = b.msb ∧ (a + b).msb ≠ a.msb)) ∧
    (let a := (regs 0x80000000 0).src 9; let i := (0xFFFF#16).signExtend 32; a.msb = i.msb ∧ (a + i).msb ≠ a.msb) ∧
    (let a := (regs 0x80000001 0).src 9; let i := (0xFFFF#16).signExtend 32;
      ¬ (a.msb = i.msb ∧ (a + i).msb ≠ a.msb)) ∧
    (let a := (regs 0x80000000 1).src 9; let b := (regs 0x80000000 1).src 10; a.msb ≠ b.msb ∧ (a - b).msb ≠ a.msb) ∧
    (let a := (regs 0x80000001 1).src 9; let b := (regs 0x80000001 1).src 10;
      ¬ (a.msb ≠ b.msb ∧ (a - b).msb ≠ a.msb)) := by decide +kernel

theorem test_witness_DivideResult :
    (regs 0x80000000 0xFFFFFFFF).src 10 ≠ 0 ∧ (regs 0x80000000 0xFFFFFFFF).src 9 = 0x80000000 ∧
      (regs 0x80000000 1).src 10 ≠ 0 ∧ (regs 7 0xFFFFFFFF).src 9 ≠ 0x80000000 ∧ (regs 7 0).src 10 = 0 := by
  decide +kernel

/-- A read of HI whose register the instruction at `pc` overwrites is over (R256); another instruction leaves it open. -/
theorem test_begin_drops_overwritten_read :
    let s := fun w => ({ open_ 0x80002000 with
      hi := 5, pipe := { Pipe.empty with hiloReads := [⟨8, true, 5, 0⟩] } } : State).withFetchWord 32 w
    (s 0x24080005).begin.pipe.hiloReads = [] ∧ (s 0x24090005).begin.pipe.hiloReads = [⟨8, true, 5, 1⟩] := by
  decide +kernel

/-- `$8` holds what an `mfhi` of the previous instruction read. -/
def afterMfhi : State :=
  { (open_ 0x80002000).setGpr 8 5 with hi := 5, pipe := { Pipe.empty with hiloReads := [⟨8, true, 5, 1⟩] } }

theorem test_witness_MovesOfHiLo :
    afterMfhi.pipe.hiloFresh = false ∧ (∀ x ∈ afterMfhi.pipe.hiloReads, x.rd ≠ 9 ∨ x.isHi ≠ true) ∧
    (∃ x, afterMfhi.pipe.hiloReads = [x] ∧ afterMfhi.gprAt x.rd = x.value ∧ x.isHi = true) ∧
    ∃ t, exec (.mthi 9) afterMfhi = .next t := ⟨rfl, by decide, ⟨_, rfl, rfl, rfl⟩, _, rfl⟩

/-- User mode with SR.RE, page 3 mapped. -/
def reversed : State := withSr withTlb 0x02000002

theorem test_witness_ByteAccessReachesItsByte :
    (∃ pa u, withMemory.translate 0xA0001000 false = .ok pa u) ∧ withMemory.bigEndianCpu = withMemory.cfg.bigEndian ∧
    (∃ pa u, reversed.translate 0x3003 false = .ok pa u) ∧ reversed.bigEndianCpu ≠ reversed.cfg.bigEndian :=
  ⟨⟨_, _, rfl⟩, by decide +kernel, ⟨0x7003, true, by decide +kernel⟩, by decide +kernel⟩

/-- An access of the loads and stores below is possible at each of the four offsets in the word. -/
abbrev Accesses (s : State) (store : Bool) (offset : BitVec 16) (k : Nat) : Prop :=
  MayAccess s ∧ NormalCaches s ∧ (∃ pa u, s.translate (s.src 9 + offset.signExtend 32) store = .ok pa u ∧
    LineIsMemory s pa) ∧ (s.src 9 + offset.signExtend 32).toNat % 4 = k

theorem test_witness_loads :
    Accesses withMemory false 0 0 ∧ Accesses withMemory false 1 1 ∧ Accesses withMemory false 2 2 ∧
      Accesses withMemory false 0xFFFF 3 :=
  ⟨⟨by decide, by decide, ⟨_, _, rfl, lineIsMemory _ _ rfl⟩, by decide +kernel⟩,
   ⟨by decide, by decide, ⟨_, _, rfl, lineIsMemory _ _ rfl⟩, by decide +kernel⟩,
   ⟨by decide, by decide, ⟨_, _, rfl, lineIsMemory _ _ rfl⟩, by decide +kernel⟩,
   ⟨by decide, by decide, ⟨_, _, rfl, lineIsMemory _ _ rfl⟩, by decide +kernel⟩⟩

/-- AlignedLoadResult, UnalignedLoadResult, AbsentCoprocessorMemory and FpLoadResult: with the coprocessors usable. -/
theorem test_witness_AlignedLoadResult : Accesses withMemory false 0 0 ∧ Accesses withMemory false 2 2 :=
  ⟨test_witness_loads.1, test_witness_loads.2.2.1⟩
theorem test_witness_UnalignedLoadResult : Accesses withMemory false 1 1 ∧ Accesses withMemory false 0xFFFF 3 :=
  ⟨test_witness_loads.2.1, test_witness_loads.2.2.2⟩
theorem test_witness_FpLoadResult : FpaReady withMemory ∧ Accesses withMemory false 0 0 :=
  ⟨by decide, test_witness_loads.1⟩

theorem test_witness_StoreResult :
    Contents withMemory ∧ FpaReady withMemory ∧ Accesses withMemory true 0 0 ∧ Accesses withMemory true 1 1 ∧
      Accesses withMemory true 2 2 ∧ Accesses withMemory true 0xFFFF 3 :=
  ⟨by decide +kernel, by decide, ⟨by decide, by decide, ⟨_, _, rfl, lineIsMemory _ _ rfl⟩, by decide +kernel⟩,
   ⟨by decide, by decide, ⟨_, _, rfl, lineIsMemory _ _ rfl⟩, by decide +kernel⟩,
   ⟨by decide, by decide, ⟨_, _, rfl, lineIsMemory _ _ rfl⟩, by decide +kernel⟩,
   ⟨by decide, by decide, ⟨_, _, rfl, lineIsMemory _ _ rfl⟩, by decide +kernel⟩⟩

theorem test_witness_AbsentCoprocessorMemory :
    Contents withMemory ∧ withMemory.usable 2 = true ∧ withMemory.usable 3 = true ∧ Accesses withMemory false 0 0 ∧
      Accesses withMemory true 0 0 ∧
    (let s := onPart basePart
     Contents s ∧ s.usable 1 = true ∧ s.cfg.hasFpa = false ∧ Accesses s false 0 0 ∧ Accesses s true 0 0) :=
  ⟨test_witness_StoreResult.1, rfl, rfl, test_witness_loads.1, test_witness_StoreResult.2.2.1, by decide +kernel,
    by decide, by decide, ⟨by decide, by decide, ⟨_, _, rfl, lineIsMemory _ _ rfl⟩, by decide +kernel⟩,
    ⟨by decide, by decide, ⟨_, _, rfl, lineIsMemory _ _ rfl⟩, by decide +kernel⟩⟩

theorem test_witness_LoadAfterStore :
    Contents withMemory ∧ NormalCaches withMemory ∧
    (∃ pa, withMemory.translate 0xA0001000 true = .ok pa true ∧
      ∀ a, wordAddr a = wordAddr pa → regionKind withMemory.cfg a = .ram) ∧
    ∃ pa, withMemory.translate 0x80001000 true = .ok pa false ∧
      ∀ a, wordAddr a = wordAddr pa → regionKind withMemory.cfg a = .ram :=
  ⟨by decide +kernel, by decide, ⟨_, rfl, fun _ _ => rfl⟩, ⟨_, rfl, fun _ _ => rfl⟩⟩

/-- D-cache line 0 holds a word of address 0. -/
def cached : State := { open_ 0x80002000 with dcache := [(0, ⟨true, 0, 0x11223344⟩)] }

theorem test_witness_CachedStoreUpdatesCache :
    Contents cached ∧ NormalCaches cached ∧ cached.dHit 0 = true ∧ cached.dHit 4 = false ∧
      cached.dIndex 4 ≠ cached.dIndex 0 := by decide +kernel

theorem test_witness_IsolatedAccessStaysInCache :
    (let s := withSr cached 0x10010000
     Contents s ∧ s.isolated = true ∧ s.swapped = false ∧ s.dIndex 4 ≠ s.dIndex 0) ∧
    (let s := withSr cached 0x10030000
     Contents s ∧ s.isolated = true ∧ s.swapped = true ∧ s.iIndex 16 ≠ s.iIndex 0 ∧ lineWord 4 ≠ lineWord 0) := by
  decide +kernel

theorem test_witness_MisalignedAccessRaises :
    (withMemory.src 9 + (3#16).signExtend 32).toNat % 2 = 1 ∧
    (withMemory.src 9 + (2#16).signExtend 32).toNat % 4 ≠ 0 ∧ (withMemory.src 9 + (3#16).signExtend 32).toNat % 4 ≠ 0 ∧
    MayAccess withMemory ∧ withMemory.usable 1 = true ∧ withMemory.usable 2 = true ∧ withMemory.usable 3 = true := by
  decide +kernel

/-- A board on which nothing answers at 0x1000 to 0x1FFF, and the word at 0x2004 fails for loads. -/
def holed : State :=
  { withMemory with cfg := { Config.standard with
      regions := [⟨0x1000, 0x1000, .absent, false, false⟩, ⟨0x2004, 4, .ram, false, true⟩] } }

theorem test_witness_BusErrorOnLoad :
    MayAccess holed ∧ NormalCaches holed ∧ (holed.src 9).toNat % 4 = 0 ∧ holed.blockRefill = false ∧
    holed.translate (holed.src 9) false = .ok 0x1000 true ∧ busError holed.cfg false 0x1000 = true ∧
    holed.translate 0x80001FFC false = .ok 0x1FFC false ∧ busError holed.cfg false 0x1FFC = true ∧
    holed.servedByCache false 0x1FFC = false ∧ busError holed.cfg true 0x2004 = false ∧
    (let s := { holed with cp0 := { holed.cp0 with config := 0x2C000000 } }
     s.blockRefill = true ∧ s.translate 0x8000200C false = .ok 0x200C false ∧ s.servedByCache false 0x200C = false ∧
      busError s.cfg false (blockAddr 0x200C + BitVec.ofNat 32 (4 * 1)) = true) ∧
    holed.usable 1 = true ∧ holed.usable 2 = true ∧ holed.usable 3 = true := by decide +kernel

theorem test_witness_UndefinedSequencesStop :
    { open_ 0 with inDelay := true }.inDelay = true ∧
    { open_ 0 with pipe := { Pipe.empty with prev := .tlbp } }.pipe.prev = .tlbp := ⟨rfl, rfl⟩

theorem test_witness_WriteBufferIsFifo :
    { open_ 0 with wbuf := List.replicate 4 ⟨0, 1, 0b1111⟩ }.wbuf.length ≤ 4 := by decide

/-- The edges of each region. -/
theorem test_witness_FixedTranslation :
    (user 0).userMode = true ∧ (open_ 0).userMode = false ∧ (onPart basePart).userMode = false ∧
    (0x80000000 ≤ (0x80000000#32).toNat ∧ (0x80000000#32).toNat < 0xA0000000) ∧
    (0x80000000 ≤ (0x9FFFFFFF#32).toNat ∧ (0x9FFFFFFF#32).toNat < 0xA0000000) ∧
    (0xA0000000 ≤ (0xBFFFFFFF#32).toNat ∧ (0xBFFFFFFF#32).toNat < 0xC0000000) ∧ (0x80000000#32).msb = true ∧
    (onPart basePart).cfg.hasMmu = false ∧ (0x7FFFFFFF#32).toNat < 0x80000000 ∧ 0xC0000000 ≤ (0xC0000000#32).toNat := by
  decide +kernel

/-- Page 3 in entry 5 (valid, writable), page 4 in entry 6 (not writable) and 7 (invalid page 0xC0000), page 9 twice. -/
def manyEntries : State :=
  { withTlb with tlb :=
      ((((State.reset.tlb.set 5 ⟨0x3000, 0x7F00⟩).set 6 ⟨0x4000, 0x8300⟩).set 7 ⟨0xC0000000, 0x9100⟩).set 8
        ⟨0x9000, 0x7F00⟩).set 9 ⟨0x9000, 0x8F00⟩ }

/-- The match of TlbTranslation. -/
abbrev hit (s : State) (va : Word) (i : Fin 64) : Prop :=
  (s.tlb[i]).hi.extractLsb' 12 20 = va.extractLsb' 12 20 ∧
    ((s.tlb[i]).lo.getLsbD 8 = true ∨ (s.tlb[i]).hi.extractLsb' 6 6 = s.cp0.entryHi.extractLsb' 6 6)

theorem test_witness_TlbTranslation :
    manyEntries.cfg.hasMmu = true ∧ NoRecentMtc0 manyEntries ∧ manyEntries.pipe.tlbLate = [] ∧
    manyEntries.tlbShutDown = false ∧ manyEntries.userMode = false ∧
    (∀ i, ¬ hit manyEntries 0x7FFFF000 i) ∧
    (hit manyEntries 0x3FFF 5 ∧ ∀ j, hit manyEntries 0x3FFF j → j = 5) ∧
    (hit manyEntries 0x4000 6 ∧ ∀ j, hit manyEntries 0x4000 j → j = 6) ∧
    (hit manyEntries 0xC0000000 7 ∧ ∀ j, hit manyEntries 0xC0000000 j → j = 7) ∧ (0x3FFF#32).msb = false ∧
    0xC0000000 ≤ (0xC0000000#32).toNat ∧
    (8 : Fin 64) ≠ 9 ∧ hit manyEntries 0x9000 8 ∧ hit manyEntries 0x9000 9 := by decide +kernel

/-- The micro-TLB holds page 3. -/
def holding : State := { withTlb with utlb := [⟨3, 7, false⟩] }

theorem test_witness_FetchTranslation :
    (0x80000002#32).extractLsb' 0 2 ≠ 0 ∧ ((user 0).userMode = true ∧ (0x80000000#32).msb = true) ∧
    ((0x4000#32).extractLsb' 0 2 = 0 ∧ holding.pipe.tlbLate = [] ∧ ∀ p ∈ holding.utlb, p.vpn ≠ vpnOf 0x4000) ∧
    ((0x3FFC#32).extractLsb' 0 2 = 0 ∧ holding.cfg.hasMmu = true ∧ holding.tlbShutDown = false ∧
      (0x3FFC#32).msb = false ∧ holding.utlb.find? (fun q => q.vpn == vpnOf 0x3FFC) = some ⟨3, 7, false⟩) := by
  decide +kernel

theorem test_witness_ConditionalBranch : (open_ 0x80002000).inDelay = false := rfl

theorem test_witness_Jump : (open_ 0x80002000).inDelay = false ∧ (8 : Reg) ≠ 31 := by decide

theorem test_witness_JalrOfItsOwnLink : (open_ 0x80002000).inDelay = false := rfl

theorem test_witness_CoprocessorBranch :
    (∀ z : BitVec 2, (open_ 0).inDelay = false ∧ (open_ 0).usable z = true ∧ (open_ 0).pipe.condWin = 0 ∧
      (open_ 0).cfg.is3041 = false) ∧
    ∀ z : BitVec 2, (onPart part3041).inDelay = false ∧ (onPart part3041).usable z = true ∧
      (onPart part3041).cfg.hasFpa = false ∧ NoRecentMtc0 (onPart part3041) ∧
      (onPart part3041).cp0.busCtrl.getLsbD 13 = true := by decide +kernel

theorem test_witness_ExceptionEntry :
    NoRecentMtc0 (open_ 0) ∧ NoRecentMtc0 { open_ 0 with inDelay := true } ∧
    (∃ z, Exc.cpu 3 = .cpu z) ∧ (∃ va, (Exc.adel 0x80000001).badVaddr = some va) ∧
    (∃ va, (Exc.mod 0xC0000000).tlbAddress = some va) ∧ Exc.ov.tlbAddress = none ∧
    (∃ va : Word, va.msb = false ∧ (Exc.tlbl 0x7FFFFFFF true = .tlbl va true ∨ Exc.tlbl 0x7FFFFFFF true = .tlbs va true)) ∧
    (∀ va, (Exc.tlbs 0x80000000 true = .tlbl va true ∨ Exc.tlbs 0x80000000 true = .tlbs va true) → va.msb = true) ∧
    (∀ va, (Exc.tlbl 0 false = .tlbl va true ∨ Exc.tlbl 0 false = .tlbs va true) → va.msb = true) :=
  ⟨by decide, by decide, ⟨_, rfl⟩, ⟨_, rfl⟩, ⟨_, rfl⟩, rfl, ⟨_, rfl, .inl rfl⟩, by rintro va (h | h) <;> cases h; rfl,
    by rintro va (h | h) <;> cases h⟩

theorem test_witness_ReturnFromException :
    (let s := withSr (open_ 0) 0x0000000C
     s.usable 0 = true ∧ NoRecentMtc0 s ∧ s.pipe.prev ≠ .memory) ∧
    (let s := { withSr (open_ 0) 0x00000004 with pipe := { Pipe.empty with prev := .memory } }
     s.usable 0 = true ∧ NoRecentMtc0 s ∧ s.cp0.sr.getLsbD 1 = s.cp0.sr.getLsbD 3) ∧
    (let s := { withSr (open_ 0) 0x0000000C with pipe := { Pipe.empty with prev := .memory } }
     s.usable 0 = true ∧ NoRecentMtc0 s ∧ s.pipe.prev = .memory ∧ s.cp0.sr.getLsbD 1 ≠ s.cp0.sr.getLsbD 3) := by
  decide +kernel

theorem test_witness_MoveFromCp0 :
    ∀ c ∈ [Config.standard, part3041], (onPart c).usable 0 = true ∧ NoRecentMtc0 (onPart c) ∧ c.wf = true ∧
      (c.hasMmu = true ∨ c.is3041 = true) ∧ (8 : Reg) ≠ 0 ∧ NoCp0Register c 7 ∧ NoCp0Register c 31 := by
  decide +kernel

theorem test_witness_MoveToCp0 :
    (∀ c ∈ [Config.standard, part3041], (onPart c).usable 0 = true ∧ NoRecentMtc0 (onPart c) ∧ c.wf = true ∧
      (c.hasMmu = true ∨ c.is3041 = true)) ∧
    (open_ 0).cfg.hasConfig7181 = true ∧ (open_ 0).cp0.config.getLsbD 31 = false ∧
    { (open_ 0).cp0 with config := 0x8C000000 }.config.getLsbD 31 = true ∧ (open_ 0).cfg.hasFpa = true ∧
    (onPart part3041).cp0.config.getLsbD 31 = false ∧ (onPart part3041).cp0.busCtrl.getLsbD 31 = false ∧
    NoCp0Register part3041 0 ∧ NoCp0Register Config.standard 11 ∧
    ∃ t, exec (.mtc0 8 10) (open_ 0) = .next t :=
  ⟨by decide +kernel, by decide, by decide, by decide, by decide, by decide, by decide, by decide, by decide, _, rfl⟩

theorem test_witness_CoprocessorUnusable :
    (∀ z : BitVec 2, (user 0).usable z = false) ∧ (opOf (encode (.rfe))).toNat = 16 ∧
    (opOf (encode (.cop3 0))).toNat = 19 ∧ (opOf (encode (.lwc1 2 0 9))).toNat = 49 ∧
    (opOf (encode (.swc2 2 0 9))).toNat = 58 ∧ NoRecentMtc0 (user 0) ∧
    (∀ rt rd, Instr.rfe ≠ .mfc3 rt rd) ∧ ∀ rt offset base, Instr.rfe ≠ .swc3 rt offset base :=
  ⟨by decide +kernel, by decide, by decide, by decide, by decide, by decide, by rintro _ _ ⟨⟩, by rintro _ _ _ ⟨⟩⟩

theorem test_witness_UserCodeCannotChangeCp0 :
    (user 0).usable 0 = false ∧ (∃ t, exec (.addu 8 9 10) (user 0) = .next t) ∧ ∃ t, exec .rfe (user 0) = .next t :=
  ⟨rfl, ⟨_, rfl⟩, ⟨_, rfl⟩⟩

theorem test_witness_TlbReadAndWrite :
    (withTlb.usable 0 = true ∧ withTlb.cfg.hasMmu = true ∧ NoRecentMtc0 withTlb) ∧
    (onPart basePart).usable 0 = true ∧ (onPart basePart).cfg.hasMmu = false := by decide +kernel

/-- None, one and two entries match. -/
theorem test_witness_TlbProbe :
    (∀ v ∈ [0x7FFFF000, 0x3000, 0x9000],
      let s := { manyEntries with cp0 := { manyEntries.cp0 with entryHi := BitVec.ofNat 32 v } }
      s.usable 0 = true ∧ s.cfg.hasMmu = true ∧ NoRecentMtc0 s ∧ s.pipe.tlbLate = [] ∧ s.tlbShutDown = false) ∧
    (∀ i, ¬ hit manyEntries 0x7FFFF000 i) ∧
    (hit manyEntries 0x3000 5 ∧ ∀ j, hit manyEntries 0x3000 j → j = 5) ∧
    (hit manyEntries 0x9000 8 ∧ hit manyEntries 0x9000 9) := by decide +kernel

theorem test_witness_AbsentCoprocessors :
    (open_ 0).usable 2 = true ∧ (open_ 0).usable 3 = true ∧ (onPart basePart).usable 1 = true ∧
      (onPart basePart).cfg.hasFpa = false := by decide +kernel

/-- 1.5 and 2.25, in both formats. -/
def fpS : State := fp 0 0x3FC00000 0 0x40100000 0
def fpD : State := fp 0 0 0x3FF80000 0 0x40020000

/-- A finite number of a format. -/
abbrev Finite (s : State) (d : Bool) (r : Reg) (n : Bool) (m : Nat) (e : Int) : Prop :=
  (formatOf d).unpack (s.srcFp d r) = .finite n m e

/-- 1.5 and 2.25: sum, difference, product and quotient are normalized numbers. -/
theorem test_witness_FpArithmeticResult :
    FpaReady fpS ∧ FpaReady fpD ∧ InexactMasked fpS ∧ InexactMasked fpD ∧ fpS.pipe.fcrShadow = none ∧
    Finite fpS false 2 false 0xC00000 (-23) ∧ Finite fpS false 4 false 0x900000 (-22) ∧
    Finite fpD true 2 false 0x18000000000000 (-52) ∧ Finite fpD true 4 false 0x12000000000000 (-51) ∧
    fpValue false 0x900000 (-22) ≠ 0 ∧ (2 : ℚ) ^ single.emin ≤ |fpValue false 0xC00000 (-23)| := by
  refine ⟨by decide, by decide, by decide, by decide, rfl, by decide +kernel, by decide +kernel, by decide +kernel,
    by decide +kernel, by norm_num [fpValue], ?_⟩
  rw [show single.emin = -126 from rfl, show fpValue false 0xC00000 (-23) = 3 / 2 by norm_num [fpValue]]
  norm_num [abs_of_pos]

/-- The smallest normalized numbers: their product is far below the format, and rounds to zero. -/
theorem test_witness_FpArithmeticResult_underflow :
    let s := fp 0 0x00800000 0 0x00800000 0
    FpaReady s ∧ Finite s false 2 false 0x800000 (-149) ∧ fcrMode s.fcrView = 0 ∧
    RoundsTo 0 (fpValue false 0x800000 (-149) * fpValue false 0x800000 (-149) / (2 : ℚ) ^ (single.emin - single.mant)) 0 := by
  refine ⟨by decide, by decide +kernel, by decide, ?_⟩
  rw [show single.emin - (single.mant : Int) = -149 from rfl]
  exact ⟨by norm_num [fpValue, abs_of_pos], fun _ => rfl⟩

theorem test_witness_FpConversionResult :
    FpaReady fpS ∧ FpaReady fpD ∧ InexactMasked fpS ∧ Finite fpS false 2 false 0xC00000 (-23) ∧
    Finite fpD true 2 false 0x18000000000000 (-52) ∧ fcrMode fpS.fcrView = 0 ∧
    RoundsTo 0 (fpValue false 0xC00000 (-23)) 2 := by
  refine ⟨by decide, by decide, by decide, by decide +kernel, by decide +kernel, by decide, ?_⟩
  exact ⟨by norm_num [fpValue, abs_of_neg], fun _ => rfl⟩

/-- Finite operands: a zero and a normalized number. -/
theorem test_witness_FpSignAndMove :
    FpaReady fpS ∧ (∃ n m e, single.unpack (fpS.srcSingle 2) = .finite n m e) ∧
    (∃ n m e, single.unpack (fpS.srcSingle 0) = .finite n m e) ∧
    ∃ n m e, double.unpack (fpD.srcDouble 4) = .finite n m e :=
  ⟨by decide, ⟨false, 0xC00000, -23, by decide +kernel⟩, ⟨false, 0, 0, by decide +kernel⟩,
    ⟨false, 0x12000000000000, -51, by decide +kernel⟩⟩

theorem test_witness_FpCompareResult :
    FpaReady fpS ∧ FpaReady fpD ∧ (∃ n m e, single.unpack (fpS.srcFp false 2) = .finite n m e) ∧
    ∃ n m e, double.unpack (fpD.srcFp true 4) = .finite n m e :=
  ⟨by decide, by decide, ⟨false, 0xC00000, -23, by decide +kernel⟩, ⟨false, 0x12000000000000, -51, by decide +kernel⟩⟩

/-- A tie, for the first clause of RoundingModes. -/
theorem test_witness_RoundingModes : 2 * 6 = 2 * (roundShift 0 false 6 2 false * 2 ^ 2) - 2 ^ 2 := by decide +kernel

theorem test_witness_FpResultWithoutInexactIsExact :
    single.round 0 false false 3 (-1) false = .must 0x3FC00000 excNone ∧
    double.round 3 false true 3 (-1) false = .must 0xBFF8000000000000 excNone := by decide +kernel

/-- A denormalized number and the two NaNs in `$f2` and in `$f4`, infinities, zeros, and a COP1 word that is no operation;
the FPA's interrupt enabled and not. -/
theorem test_witness_FpDeclinedOperation :
    (∀ p ∈ [((1 : Word), Fp.denormal), (0x7FBFFFFF, .quietNan), (0x7FC00000, .signallingNan), (0x7F800000, .inf false),
        (0, .finite false 0 0)],
      FpaReady (fp 0 p.1 0 p.1 0) ∧ (fp 0 p.1 0 p.1 0).fpInvalidEnabled = false ∧
        single.unpack ((fp 0 p.1 0 p.1 0).srcSingle 2) = p.2 ∧ single.unpack ((fp 0 p.1 0 p.1 0).srcSingle 4) = p.2) ∧
    double.unpack ((fp 0 0 0x7FF00000 0 0xFFF00000).srcDouble 2) = .inf false ∧
    double.unpack ((fp 0 0 0x7FF00000 0 0xFFF00000).srcDouble 4) = .inf true ∧
    decodeWord 0x46041004 = .error (.unimplementedFpOperation 16 4) ∧ NoRecentMtc0 fpS ∧
    (fpS.cp0.config.extractLsb' 26 3).toNat < 6 ∧ ¬ FpRequestEnabled fpS ∧ FpRequestEnabled (withSr fpS 0x20002001) :=
  ⟨by decide +kernel, by decide +kernel, by decide +kernel, rfl, by decide, by decide, by decide, by decide⟩

theorem test_witness_FpRegisterMoves : FpaReady fpS ∧ fpS.pipe.fcrShadow = none := by decide

end Sys2Proof.Tests
end

/-! The state of the machine: the invariant every step keeps, Halt and the interrupt before an instruction, the
operands, the write buffer, the rounding of the FPA. -/

namespace Sys2Proof.Proofs

open Sys2Proof.Machine Sys2Proof.Laws

/-! ## The invariant part by part -/

/-- The part of the invariant that speaks of coprocessor 0: the fields drawn "0" are zero, Random is 8 to 63. -/
def Cp0Ok (c : Cp0) : Prop :=
  c.sr &&& 0x0D8000C0 = 0 ∧ c.cause &&& 0x4FFFFC83 = 0 ∧ c.entryHi &&& 0x3F = 0 ∧ c.entryLo &&& 0xFF = 0 ∧
    c.context &&& 3 = 0 ∧ 8 ≤ c.random.toNat

/-- The part that speaks of FCR31. -/
def FcrOk (f : Word) : Prop := f &&& 0xFF7C0000 = 0

/-- Going from `s` to `t` keeps the configuration and each part of the invariant. -/
structure Keeps (s t : State) : Prop where
  cfg : t.cfg = s.cfg
  contents : Contents s → Contents t
  cp0 : Cp0Ok s.cp0 → Cp0Ok t.cp0
  fcr31 : FcrOk s.fcr31 → FcrOk t.fcr31
  gpr : s.gpr[0] = 0 → t.gpr[0] = 0
  wbuf : s.wbuf.length ≤ 4 → t.wbuf.length ≤ 4
  utlb : s.utlb.length ≤ 2 → t.utlb.length ≤ 2

theorem Keeps.refl (s : State) : Keeps s s := ⟨rfl, id, id, id, id, id, id⟩

theorem Keeps.trans {s t u : State} (h : Keeps s t) (k : Keeps t u) : Keeps s u :=
  ⟨k.cfg.trans h.cfg, k.contents ∘ h.contents, k.cp0 ∘ h.cp0, k.fcr31 ∘ h.fcr31, k.gpr ∘ h.gpr, k.wbuf ∘ h.wbuf,
    k.utlb ∘ h.utlb⟩

theorem Keeps.machineInv {s t : State} (h : Keeps s t) (hs : MachineInv s) : MachineInv t ∧ t.cfg = s.cfg := by
  obtain ⟨hc, ⟨hsr, hcause, hhi, hlo, hctx, hfcr⟩, hgpr, hrandom, hwbuf, hutlb⟩ := hs
  obtain ⟨hsr', hcause', hhi', hlo', hctx', hrandom'⟩ := h.cp0 ⟨hsr, hcause, hhi, hlo, hctx, hrandom⟩
  exact ⟨⟨h.contents hc, ⟨hsr', hcause', hhi', hlo', hctx', h.fcr31 hfcr⟩, h.gpr hgpr, hrandom', h.wbuf hwbuf,
    h.utlb hutlb⟩, h.cfg⟩

/-- Repeating an operation that keeps the invariant keeps it. -/
theorem keeps_foldl {α : Type} {f : State → α → State} (h : ∀ t x, Keeps t (f t x)) (l : List α) (s : State) :
    Keeps s (l.foldl f s) := by
  induction l generalizing s with
  | nil => exact Keeps.refl s
  | cons x l ih => exact (h s x).trans (ih _)

/-! ## Words under a mask -/

theorem mergeBits_and (mask keep other z : Word) :
    mergeBits mask keep other &&& z = (keep &&& (mask &&& z)) ||| (other &&& (~~~mask &&& z)) := by
  unfold mergeBits
  ext i
  simp only [BitVec.getElem_and, BitVec.getElem_or, BitVec.getElem_not]
  grind

/-- A field that a merge takes from a word where it is zero is zero. -/
theorem mergeBits_and_eq_zero {mask keep other z : Word} (hk : keep &&& (mask &&& z) = 0)
    (ho : other &&& (~~~mask &&& z) = 0) : mergeBits mask keep other &&& z = 0 := by
  rw [mergeBits_and, hk, ho]; rfl

/-- Bits outside the mask `z` say nothing under it. -/
theorem setBit_and {z : Word} {k : Nat} (h : z &&& (1#32 <<< k) = 0) (w : Word) (b : Bool) :
    setBit w k b &&& z = w &&& z := by
  unfold setBit
  have hz : ∀ i (hi : i < 32), (z[i] && (1#32 <<< k)[i]) = false := fun i hi => by
    rw [← BitVec.getElem_and, h]; simp
  split <;> ext i hi <;> have := hz i hi <;>
    simp only [BitVec.getElem_and, BitVec.getElem_or, BitVec.getElem_not] <;> grind


/-! ## Coprocessor 0 keeps its zero fields -/

theorem Cp0Ok.setSr {c : Cp0} (h : Cp0Ok c) {sr : Word} (hsr : sr &&& 0x0D8000C0 = 0) : Cp0Ok { c with sr := sr } :=
  ⟨hsr, h.2⟩

theorem pushMode_reserved {sr : Word} (h : sr &&& 0x0D8000C0 = 0) : pushMode sr &&& 0x0D8000C0 = 0 :=
  mergeBits_and_eq_zero h (by simp)

theorem popMode_reserved {sr : Word} (h : sr &&& 0x0D8000C0 = 0) : popMode sr &&& 0x0D8000C0 = 0 :=
  mergeBits_and_eq_zero h (by simp)

theorem srWrite_reserved (old v : Word) : srWrite old v &&& 0x0D8000C0 = 0 := by
  refine mergeBits_and_eq_zero (by simp) ?_
  split <;> simp [BitVec.and_assoc]

theorem causeAfter_reserved (cause : Word) (slot : Bool) (ce : BitVec 2) (code : BitVec 5) :
    causeAfter cause slot ce code &&& 0x4FFFFC83 = 0 := by
  unfold causeAfter
  apply BitVec.eq_of_getLsbD_eq
  intro i hi
  interval_cases i <;> cases slot <;> simp

/-- Taking an exception (60_exceptions.md R530, R534) writes only bits that exist. -/
theorem excCp0_ok {s : State} (h : Cp0Ok s.cp0) (e : Exc) : Cp0Ok (s.excCp0 e) := by
  obtain ⟨hsr, -, hhi, hlo, hctx, hrandom⟩ := h
  refine ⟨pushMode_reserved hsr, causeAfter_reserved _ _ _ _, ?_, hlo, ?_, hrandom⟩
  · show (match e.tlbAddress with | some va => setVpn va s.cp0.entryHi | none => s.cp0.entryHi) &&& 0x3F = 0
    split
    · exact mergeBits_and_eq_zero (by simp) hhi
    · exact hhi
  · show (match e.tlbAddress with | some va => setBadVpn va s.cp0.context | none => s.cp0.context) &&& 3 = 0
    split
    · exact mergeBits_and_eq_zero (by simp) hctx
    · exact hctx

/-- `mtc0` (45_system_cp0_tlb.md R337) writes only bits that exist. -/
theorem cp0Write_ok {s : State} (h : Cp0Ok s.cp0) (n : Reg) (v : Word) : Cp0Ok (s.cp0Write n v) := by
  obtain ⟨hsr, hcause, hhi, hlo, hctx, hrandom⟩ := h
  have same : Cp0Ok s.cp0 := ⟨hsr, hcause, hhi, hlo, hctx, hrandom⟩
  unfold State.cp0Write
  simp only []
  split
  case h_2 => -- EntryLo or BusCtrl
    split_ifs
    · exact ⟨hsr, hcause, hhi, by simp [BitVec.and_assoc], hctx, hrandom⟩
    · exact same
    · exact same
  case h_4 => -- Context
    split
    · exact ⟨hsr, hcause, hhi, hlo, mergeBits_and_eq_zero (by simp) hctx, hrandom⟩
    · exact same
  case h_7 => -- EntryHi or PortSize
    split_ifs
    · exact ⟨hsr, hcause, by simp [BitVec.and_assoc], hlo, hctx, hrandom⟩
    · exact same
    · exact same
  case h_9 => -- SR
    exact same.setSr (srWrite_reserved _ _)
  case h_10 => -- Cause
    exact ⟨hsr, mergeBits_and_eq_zero (by simp) hcause, hhi, hlo, hctx, hrandom⟩
  -- the other registers have no field drawn "0"
  all_goals (try split_ifs) <;> exact same

/-- The timer leaves all but Count and Tc* alone. -/
theorem tickCount_cp0_ok {s : State} (h : Cp0Ok s.cp0) (u : ClockUse) : Cp0Ok (s.tickCount u).cp0 := h

/-- Random is drawn from 8 to 63 (10_state.md R68). -/
theorem tickRandom_cp0_ok {s : State} (h : Cp0Ok s.cp0) : Cp0Ok s.tickRandom.cp0 := by
  obtain ⟨hsr, hcause, hhi, hlo, hctx, -⟩ := h
  refine ⟨hsr, hcause, hhi, hlo, hctx, ?_⟩
  show 8 ≤ (BitVec.ofNat 6 (8 + (s.free .random).toNat % 56)).toNat
  have : (s.free .random).toNat % 56 < 56 := Nat.mod_lt _ (by decide)
  rw [BitVec.toNat_ofNat, Nat.mod_eq_of_lt (by omega)]
  omega

/-! ## FCR31 keeps its zero fields (10_state.md R75) -/

theorem setFcrCause_ok {f : Word} (h : FcrOk f) (unimp : Bool) (cause : BitVec 5) : FcrOk (setFcrCause f unimp cause) :=
  mergeBits_and_eq_zero (by simp) h

theorem orFcrFlags_ok {f : Word} (h : FcrOk f) (flags : BitVec 5) : FcrOk (orFcrFlags f flags) := by
  have hf : (flags.setWidth 32 <<< 2) &&& (0xFF7C0000 : Word) = 0 := by
    apply BitVec.eq_of_getLsbD_eq
    intro i hi
    interval_cases i <;> simp
  unfold FcrOk orFcrFlags
  rw [BitVec.and_comm, BitVec.and_or_distrib_left, BitVec.and_comm _ f, h, BitVec.and_comm, hf]; rfl

theorem setFcrC_ok {f : Word} (h : FcrOk f) (c : Bool) : FcrOk (setFcrC f c) :=
  (setBit_and (by decide) f c).trans h


/-! ## What every operation keeps -/

theorem keeps_advance (s : State) : Keeps s s.advance := ⟨rfl, id, id, id, id, id, id⟩

theorem keeps_atMemory (s : State) : Keeps s (atMemory s) := ⟨rfl, id, id, id, id, id, id⟩

theorem keeps_setGpr (s : State) (r : Reg) (v : Word) : Keeps s (s.setGpr r v) := by
  unfold State.setGpr
  split
  · exact Keeps.refl s
  · rename_i hr
    have hr : r.toNat ≠ 0 := fun e => hr (BitVec.eq_of_toNat_eq e)
    exact ⟨rfl, id, id, id, fun h => by simpa [hr] using h, id, id⟩

theorem keeps_setGprLate (s : State) (r : Reg) (v : Word) (isLoad : Bool) : Keeps s (s.setGprLate r v isLoad) := by
  unfold State.setGprLate
  split
  · exact Keeps.refl s
  · exact (keeps_setGpr s r v).trans ⟨rfl, id, id, id, id, id, id⟩

theorem keeps_setFpr (s : State) (r : Reg) (v : Word) : Keeps s (s.setFpr r v) := ⟨rfl, id, id, id, id, id, id⟩

theorem keeps_setFprLate (s : State) (r : Reg) (v : Word) : Keeps s (s.setFprLate r v) :=
  ⟨rfl, id, id, id, id, id, id⟩

theorem keeps_storeFp (s : State) (isDouble : Bool) (r : Reg) (v : BitVec 64) : Keeps s (s.storeFp isDouble r v) := by
  unfold State.storeFp
  split <;> exact (keeps_setFpr s _ _).trans (keeps_setFpr _ _ _)

theorem keeps_fcr31 (s : State) {f : Word} (h : FcrOk s.fcr31 → FcrOk f) : Keeps s { s with fcr31 := f } :=
  ⟨rfl, id, id, h, id, id, id⟩

theorem keeps_writeFcr31 (s : State) (v : Word) : Keeps s (s.writeFcr31 v) :=
  ⟨rfl, id, id, fun _ => by simp [FcrOk, State.writeFcr31, fcrMask, BitVec.and_assoc], id, id, id⟩

theorem keeps_updateSr (s : State) {f : Word → Word} (h : ∀ sr, sr &&& 0x0D8000C0 = 0 → f sr &&& 0x0D8000C0 = 0) :
    Keeps s (s.updateSr f) :=
  ⟨rfl, id, fun hs => hs.setSr (h _ hs.1), id, id, id, id⟩

theorem keeps_setCm (s : State) (miss : Bool) : Keeps s (s.setCm miss) :=
  keeps_updateSr s fun sr h => (setBit_and (by decide) sr miss).trans h

theorem keeps_shutDown (s : State) : Keeps s (shutDown s) :=
  keeps_updateSr s fun sr h => (setBit_and (by decide) sr true).trans h

theorem keeps_returnFromException (s : State) : Keeps s s.returnFromException :=
  keeps_updateSr s fun _ h => popMode_reserved h

theorem keeps_takeException (s : State) (e : Exc) : Keeps s (s.takeException e) :=
  ⟨rfl, id, fun h => excCp0_ok h e, id, id, id, id⟩

/-! ### Memory and the caches -/

theorem keeps_drain (s : State) : Keeps s s.drain :=
  ⟨rfl, contents_drain, id, id, id, fun _ => Nat.zero_le 4, id⟩

theorem keeps_retire (s : State) : Keeps s s.retire :=
  ⟨by simp, contents_retire, by simp, by simp, by simp, fun h => by rw [retire_wbuf_length]; omega, by simp⟩

theorem keeps_pushStore (s : State) (e : WbEntry) : Keeps s (s.pushStore e) :=
  ⟨by simp, fun h => contents_pushStore h e, by simp, by simp, by simp, fun h => pushStore_wbuf_length h e, by simp⟩

theorem keeps_setDLine (s : State) (a : Word) (l : DLine) : Keeps s (s.setDLine a l) :=
  ⟨rfl, fun h => contents_setDLine h a l, id, id, id, id, id⟩

theorem keeps_setILine (s : State) (a : Word) (l : ILine) : Keeps s (s.setILine a l) :=
  ⟨rfl, fun h => contents_setILine h a l, id, id, id, id, id⟩

theorem keeps_fillDBlock (s : State) (a : Word) (w : Vector Word 4) : Keeps s (s.fillDBlock a w) :=
  ⟨rfl, fun h => contents_fillDBlock h a w, id, id, id, id, id⟩

theorem keeps_isolatedWrite (s : State) (a d : Word) (be : BitVec 4) : Keeps s (s.isolatedWrite a d be) :=
  ⟨by simp, fun h => contents_isolatedWrite h a d be, by simp, by simp, by simp, by simp, by simp⟩

theorem keeps_cacheStore (s : State) (a d : Word) (be : BitVec 4) : Keeps s (s.cacheStore a d be) :=
  ⟨by simp, fun h => contents_cacheStore h a d be, by simp, by simp, by simp, by simp, by simp⟩

theorem keeps_writeData (s : State) (u : Bool) (a d : Word) (be : BitVec 4) : Keeps s (s.writeData u a d be) := by
  have hp := keeps_pushStore s ⟨wordAddr a, d, be⟩
  unfold State.writeData
  simp only []
  split_ifs
  · exact keeps_isolatedWrite s a d be
  · exact hp
  · exact hp.trans (keeps_setILine _ _ _)
  · exact hp.trans (keeps_cacheStore _ _ _ _)

/-! ### Accesses -/

/-- Whatever state the access ends in keeps the invariant of `s`. -/
def KeepsAccess (s : State) : Access → Prop
  | .done _ t | .exc _ t | .shutdown t => Keeps s t
  | .dead => True

theorem readData_keeps (s : State) (u : Bool) (a : Word) : KeepsAccess s (s.readData u a) := by
  have hd := keeps_drain s
  rcases readData_cases s u a with ⟨_, h⟩ | ⟨_, h⟩ | ⟨_, _, h⟩ | ⟨_, _, h⟩ | ⟨_, _, -, h⟩ | ⟨_, _, -, h⟩ | h <;> rw [h]
  · exact Keeps.refl s
  · exact hd
  · exact hd.trans (keeps_fillDBlock _ _ _)
  · exact hd.trans (keeps_setDLine _ _ _)
  · exact keeps_setCm s _
  · exact keeps_setILine s _ _
  · exact hd

theorem fetchWord_keeps (s : State) (u : Bool) (a : Word) : KeepsAccess s (s.fetchWord u a) := by
  rcases fetchWord_cases s u a with ⟨_, h⟩ | ⟨_, h⟩ | ⟨_, _, h⟩ | ⟨_, _, h⟩ | ⟨_, _, h⟩ | h | h <;> rw [h]
  · exact Keeps.refl s
  · exact keeps_drain s
  · exact keeps_fillDBlock s _ _
  · exact keeps_setDLine s _ _
  · exact keeps_setILine s _ _
  · exact keeps_drain s
  · exact Keeps.refl s

theorem load_keeps (s : State) (va : Word) : KeepsAccess s (s.load va) := by
  rcases load_cases s va with ⟨pa, u, -, h⟩ | ⟨e, -, h⟩ | h | h <;> rw [h]
  · exact readData_keeps s u pa
  · exact Keeps.refl s
  · exact Keeps.refl s
  · exact trivial

theorem store_keeps (s : State) (va d : Word) (be : BitVec 4) : KeepsAccess s (s.store va d be) := by
  rcases store_cases s va d be with ⟨pa, u, -, h⟩ | ⟨e, -, h⟩ | h | h <;> rw [h]
  · exact keeps_writeData s u pa d be
  · exact Keeps.refl s
  · exact Keeps.refl s
  · exact trivial

theorem holdPage_length (c : Config) (held : List HeldPage) (p : HeldPage) : (holdPage c held p).length ≤ 2 := by
  refine (List.length_take_le _ _).trans ?_
  split <;> decide

/-- A fetch leaves at most two pages in the micro-TLB (10_state.md R71). -/
theorem translateFetch_held_length {s : State} (h : s.utlb.length ≤ 2) (va : Word) :
    (s.translateFetch va).2.length ≤ 2 := by
  unfold State.translateFetch
  split
  · exact h
  split
  · exact h
  split
  · exact h
  split
  · exact h
  split
  · exact holdPage_length _ _ _
  split
  · show (if _ then _ else _ : List HeldPage).length ≤ 2
    split
    · exact holdPage_length _ _ _
    · exact h
  · exact h

theorem fetch_keeps (s : State) : KeepsAccess s s.fetch := by
  have held := fun h => translateFetch_held_length (s := s) h s.pc
  unfold State.fetch
  split
  · rename_i pa u pages hx
    rw [hx] at held
    have hu : Keeps s { s with utlb := pages } := ⟨rfl, id, id, id, id, id, held⟩
    have hf := fetchWord_keeps { s with utlb := pages } u pa
    generalize ({ s with utlb := pages } : State).fetchWord u pa = x at hf ⊢
    cases x with
    | done _ t | exc _ t | shutdown t => exact hu.trans hf
    | dead => exact trivial
  · exact Keeps.refl s
  · exact Keeps.refl s
  · exact trivial


/-! ### Coprocessor 0 and the TLB -/

theorem keeps_noteCp0 (s : State) (r : Reg) (old : Word) (reads acts : Nat) : Keeps s (s.noteCp0 r old reads acts) :=
  ⟨rfl, id, id, id, id, id, id⟩

theorem keeps_flushMicroTlb (s : State) : Keeps s s.flushMicroTlb :=
  ⟨rfl, id, id, id, id, id, fun _ => Nat.zero_le 2⟩

theorem keeps_tickRandom (s : State) : Keeps s s.tickRandom := ⟨rfl, id, tickRandom_cp0_ok, id, id, id, id⟩

theorem keeps_tickCount (s : State) (u : ClockUse) : Keeps s (s.tickCount u) := ⟨rfl, id, id, id, id, id, id⟩

theorem keeps_tick (s : State) (n : Reg) : Keeps s (s.tick n) := by
  unfold State.tick
  split
  · split
    · exact keeps_tickRandom s
    · exact Keeps.refl s
  iterate 3
    split
    · exact keeps_tickCount s _
    · exact Keeps.refl s
  · exact Keeps.refl s

theorem keeps_moveToCp0 (s : State) (n : Reg) (v : Word) : Keeps s (s.moveToCp0 n v) := by
  have hw : Keeps (s.tick n) { s.tick n with cp0 := (s.tick n).cp0Write n v } :=
    ⟨rfl, id, fun h => cp0Write_ok h n v, id, id, id, id⟩
  have h := ((keeps_tick s n).trans hw).trans (keeps_noteCp0 _ n ((s.tick n).cp0Stored n) (readBackWindow s.cfg n) 3)
  unfold State.moveToCp0
  simp only []
  split
  · exact h.trans (keeps_flushMicroTlb _)
  · exact h

theorem keeps_writeTlb (s : State) (i : BitVec 6) (e : TlbEntry) : Keeps s (s.writeTlb i e) :=
  ⟨rfl, id, id, id, id, id, id⟩

/-- EntryHi and EntryLo are loaded with their "0" fields cleared (10_state.md R65, R66). -/
theorem Cp0Ok.setEntry {c : Cp0} (h : Cp0Ok c) (hi lo : Word) :
    Cp0Ok { c with entryHi := hi &&& 0xFFFFFFC0, entryLo := lo &&& 0xFFFFFF00 } := by
  obtain ⟨hsr, hcause, -, -, hrest⟩ := h
  exact ⟨hsr, hcause, by simp [BitVec.and_assoc], by simp [BitVec.and_assoc], hrest⟩

theorem keeps_readTlb (s : State) (i : BitVec 6) : Keeps s (s.readTlb i) :=
  ⟨rfl, id, fun h => h.setEntry _ _, id, id, id, fun _ => Nat.zero_le 2⟩

theorem keeps_tlbUndefined (s : State) : Keeps s s.tlbUndefined :=
  ⟨rfl, id, fun h => h.setEntry _ _, id, id, id, id⟩

theorem keeps_probeTlb (s : State) : Keeps s s.probeTlb := by
  have index (t : State) (v : Word) : Keeps t ({ t with cp0 := { t.cp0 with index := v } }.noteCp0 0 s.cp0.index 1 0) :=
    ⟨rfl, id, id, id, id, id, id⟩
  unfold State.probeTlb
  simp only []
  split
  · exact index s _
  · split
    · exact index s _
    · exact index s _
    · exact (keeps_shutDown s).trans (index _ _)

/-! ### HI and LO -/

theorem keeps_useHiLo (s : State) : Keeps s s.useHiLo := ⟨rfl, id, id, id, id, id, id⟩

theorem keeps_rereadOne (s : State) (hi lo : Option Word) (x : HiLoRead) : Keeps s (s.rereadOne hi lo x) := by
  unfold State.rereadOne
  split
  · split
    · exact keeps_setGpr s _ _
    · exact Keeps.refl s
  · exact Keeps.refl s

theorem keeps_reread (s : State) (hi lo : Option Word) : Keeps s (s.reread hi lo) :=
  (keeps_foldl (fun t x => keeps_rereadOne t hi lo x) s.pipe.hiloReads s).trans ⟨rfl, id, id, id, id, id, id⟩

/-! ## The ends of an instruction -/

/-- If the instruction answers a next state, that keeps the invariant of `s`. -/
def KeepsNext (s : State) (r : Result) : Prop := ∀ t, r = .next t → Keeps s t

theorem keepsNext_next {s t : State} (h : Keeps s t) : KeepsNext s (.next t) := fun _ e => next_inj e ▸ h

theorem keepsNext_fault (s : State) (f : Fault) : KeepsNext s (.fault f) := fun _ e => by cases e

theorem keepsNext_done {s t : State} (h : Keeps s t) : KeepsNext s (done t) :=
  keepsNext_next (h.trans (keeps_advance t))

theorem keepsNext_raise {s t : State} (h : Keeps s t) (e : Exc) : KeepsNext s (raise e t) :=
  keepsNext_next (h.trans (keeps_takeException t e))

theorem Keeps.next {s t : State} (h : Keeps s t) {r : Result} (hr : KeepsNext t r) : KeepsNext s r :=
  fun u e => h.trans (hr u e)

theorem keepsNext_withCop {s : State} {k : Result} (h : KeepsNext s k) (z : BitVec 2) : KeepsNext s (withCop z s k) := by
  intro t e
  rcases withCop_next e with ⟨-, hk⟩ | ⟨-, rfl⟩
  · exact h t hk
  · exact keeps_takeException s _

theorem keepsNext_fpOp {s : State} {k : Result} (h : KeepsNext s k) : KeepsNext s (fpOp s k) := by
  intro t e
  rcases fpOp_next e with ⟨-, -, hk⟩ | ⟨-, -, rfl⟩ | ⟨-, rfl⟩
  · exact h t hk
  · exact keeps_advance s
  · exact keeps_takeException s _

theorem keepsNext_andThen {s : State} {x : Access} {k : Word → State → Result} (hx : KeepsAccess s x)
    (hk : ∀ w t, KeepsNext t (k w t)) : KeepsNext s (x.andThen k) := by
  cases x with
  | done w t => exact Keeps.next hx (hk w t)
  | exc e t => exact keepsNext_raise hx e
  | shutdown t => exact keepsNext_next (Keeps.trans hx (keeps_shutDown t))
  | dead => exact keepsNext_fault s _

theorem keepsNext_memoryOp {s : State} {k : State → Result} (h : ∀ t, KeepsNext t (k t)) :
    KeepsNext s (memoryOp s k) := by
  intro t e
  obtain ⟨-, e⟩ := memoryOp_next e
  exact (keeps_atMemory s).trans (h _ t e)

theorem keepsNext_readMem (va : Word) (size : Nat) (s : State) {k : Word → State → Result}
    (hk : ∀ w t, KeepsNext t (k w t)) : KeepsNext s (readMem va size s k) := by
  refine keepsNext_memoryOp fun t => ?_
  split
  · exact keepsNext_raise (Keeps.refl t) _
  · exact keepsNext_andThen (load_keeps t va) hk

theorem keepsNext_writeMem (va : Word) (size : Nat) (d : Word) (be : BitVec 4) (s : State) :
    KeepsNext s (writeMem va size d be s) := by
  refine keepsNext_memoryOp fun t => ?_
  split
  · exact keepsNext_raise (Keeps.refl t) _
  · exact keepsNext_andThen (store_keeps t va d be) fun _ u => keepsNext_done (Keeps.refl u)

/-! ## The instructions, by the shape they share -/

theorem keepsNext_writeReg (rd : Reg) (v : Word) (s : State) : KeepsNext s (writeReg rd v s) :=
  keepsNext_done (keeps_setGpr s rd v)

theorem keepsNext_writeRegOrOverflow (o : Bool) (rd : Reg) (v : Word) (s : State) :
    KeepsNext s (writeRegOrOverflow o rd v s) := by
  intro t e
  rcases writeRegOrOverflow_next e with ⟨-, rfl⟩ | ⟨-, rfl⟩
  · exact (keeps_setGpr s rd v).trans (keeps_advance _)
  · exact keeps_takeException s _

theorem keepsNext_branchTo {s t : State} (h : Keeps s t) (taken : Bool) (a : Word) :
    KeepsNext s (branchTo t taken a) := by
  intro u e
  obtain ⟨-, rfl⟩ := branchTo_next e
  exact h.trans ⟨rfl, id, id, id, id, id, id⟩

theorem keepsNext_branchIf (taken : Bool) (offset : BitVec 16) (s : State) : KeepsNext s (branchIf taken offset s) :=
  keepsNext_branchTo (Keeps.refl s) _ _

theorem keepsNext_branchAndLink (taken : Bool) (offset : BitVec 16) (s : State) :
    KeepsNext s (branchAndLink taken offset s) := keepsNext_branchTo (keeps_setGpr s _ _) _ _

theorem keepsNext_branchOnCop (z : BitVec 2) (want : Bool) (offset : BitVec 16) (s : State) :
    KeepsNext s (branchOnCop z want offset s) := keepsNext_withCop (keepsNext_branchIf _ _ s) z

theorem keepsNext_loadReg (rt : Reg) (va : Word) (size : Nat) (f : Word → Word) (s : State) :
    KeepsNext s (loadReg rt va size f s) :=
  keepsNext_readMem va size s fun _ t => keepsNext_done (keeps_setGprLate t _ _ _)

theorem keepsNext_writeHiLo (hi lo : Word) (s : State) : KeepsNext s (writeHiLo hi lo s) :=
  keepsNext_done ((keeps_reread s _ _).trans ⟨rfl, id, id, id, id, id, id⟩)

theorem keepsNext_divide (a b : Int) (divisor : Word) (s : State) : KeepsNext s (divide a b divisor s) := by
  unfold divide
  split <;> exact keepsNext_writeHiLo _ _ s

theorem keepsNext_readHiLo (rd : Reg) (isHi : Bool) (v : Word) (s : State) : KeepsNext s (readHiLo rd isHi v s) :=
  keepsNext_done (((keeps_useHiLo s).trans (keeps_setGpr _ rd v)).trans ⟨rfl, id, id, id, id, id, id⟩)

theorem keepsNext_execMthi (rs : Reg) (s : State) : KeepsNext s (execMthi rs s) :=
  keepsNext_done (((keeps_reread s _ _).trans (keeps_useHiLo _)).trans ⟨rfl, id, id, id, id, id, id⟩)

theorem keepsNext_execMtlo (rs : Reg) (s : State) : KeepsNext s (execMtlo rs s) :=
  keepsNext_done (((keeps_reread s _ _).trans (keeps_useHiLo _)).trans ⟨rfl, id, id, id, id, id, id⟩)

theorem keepsNext_execRfe (s : State) : KeepsNext s (execRfe s) := by
  refine keepsNext_withCop ?_ 0
  split
  · exact keepsNext_fault s _
  · exact keepsNext_done (keeps_returnFromException s)

theorem keepsNext_tlbOp {s k : State} (h : Keeps s k) : KeepsNext s (tlbOp s k) := by
  refine keepsNext_withCop (keepsNext_done ?_) 0
  split
  · exact h
  · exact keeps_tlbUndefined s

theorem keepsNext_execTlbp (s : State) : KeepsNext s (execTlbp s) := by
  refine keepsNext_withCop (keepsNext_done ?_) 0
  refine Keeps.trans (t := { s with pipe := { s.pipe with this := .tlbp } }) ⟨rfl, id, id, id, id, id, id⟩ ?_
  split
  · exact keeps_probeTlb _
  · exact keeps_tlbUndefined _

theorem keepsNext_moveFromAbsent (z : BitVec 2) (rt : Reg) (s : State) : KeepsNext s (moveFromAbsent z rt s) :=
  keepsNext_withCop (keepsNext_done (keeps_setGprLate s _ _ _)) z

theorem keepsNext_discardToAbsent (z : BitVec 2) (s : State) : KeepsNext s (discardToAbsent z s) :=
  keepsNext_withCop (keepsNext_done (Keeps.refl s)) z

theorem keepsNext_loadToAbsent (z : BitVec 2) (va : Word) (s : State) : KeepsNext s (loadToAbsent z va s) :=
  keepsNext_withCop (keepsNext_readMem va 4 s fun _ t => keepsNext_done (Keeps.refl t)) z

theorem keepsNext_storeFromAbsent (z : BitVec 2) (va : Word) (s : State) : KeepsNext s (storeFromAbsent z va s) :=
  keepsNext_withCop (keepsNext_writeMem va 4 _ _ s) z

/-! ### The floating-point accelerator -/

/-- Outside Cause, UnImp and Flags the word FCR31 is as before, so its zero fields are. -/
theorem fcrOk_of_same_outside {f g : Word} (h : f &&& ~~~0x0003F07C = g &&& ~~~0x0003F07C) (hg : FcrOk g) : FcrOk f := by
  have within (x : Word) : x &&& 0xFF7C0000 = (x &&& ~~~0x0003F07C) &&& 0xFF7C0000 := by
    rw [BitVec.and_assoc]; rfl
  unfold FcrOk at hg ⊢
  rw [within, h, ← within, hg]

theorem keepsNext_fpComplete {s : State} {k : BitVec 64 → State} (h : ∀ v, Keeps s (k v)) (word : Word)
    (a b : BitVec 64) (o : FpOutcome) : KeepsNext s (fpComplete word a b o s k) := by
  intro t e
  rcases fpComplete_next e with ⟨f, hf, rfl | rfl⟩ | ⟨v, exc, rfl⟩
  · exact (keeps_fcr31 s (fcrOk_of_same_outside hf)).trans (keeps_takeException _ _)
  · exact (keeps_fcr31 s (fcrOk_of_same_outside hf)).trans (keeps_advance _)
  · exact ((h v).trans (keeps_fcr31 _ fun hk => orFcrFlags_ok (setFcrCause_ok hk _ _) _)).trans (keeps_advance _)

theorem keepsNext_fpDecline (s : State) : KeepsNext s (fpDecline s) :=
  keepsNext_fpComplete (fun _ => Keeps.refl s) 0 0 0 .decline

theorem keepsNext_fpOddSpecifier (fd : Reg) (s : State) : KeepsNext s (fpOddSpecifier fd s) :=
  keepsNext_done (((keeps_setFpr s _ _).trans (keeps_setFpr _ _ _)).trans
    (keeps_fcr31 _ fun h => mergeBits_and_eq_zero (by simp) h))

theorem keepsNext_fpBinary (d : Bool) (op : FpFormat → BitVec 2 → Bool → Bool → Fp → Fp → FpOutcome) (word : Word)
    (fd fs ft : Reg) (s : State) : KeepsNext s (fpBinary d op word fd fs ft s) := by
  refine keepsNext_fpOp ?_
  split
  · exact keepsNext_fpComplete (keeps_storeFp s d fd) _ _ _ _
  · exact keepsNext_fpOddSpecifier fd s

theorem keepsNext_fpUnary (d d' : Bool) (op : State → BitVec 64 → FpOutcome) (word : Word) (fd fs : Reg) (s : State) :
    KeepsNext s (fpUnary d d' op word fd fs s) := by
  refine keepsNext_fpOp ?_
  split
  · exact keepsNext_fpComplete (keeps_storeFp s d' fd) _ _ _ _
  · exact keepsNext_fpOddSpecifier fd s

theorem keepsNext_fpMove (d : Bool) (fd fs : Reg) (s : State) : KeepsNext s (fpMove d fd fs s) := by
  refine keepsNext_fpOp ?_
  split
  · exact keepsNext_done (keeps_storeFp s d fd _)
  · exact keepsNext_fpOddSpecifier fd s

theorem keepsNext_fpCompare (d : Bool) (cond : BitVec 4) (word : Word) (fs ft : Reg) (s : State) :
    KeepsNext s (fpCompare d cond word fs ft s) := by
  refine keepsNext_fpOp ?_
  have hs : Keeps s { s with pipe := { s.pipe with condWin := 2 } } := ⟨rfl, id, id, id, id, id, id⟩
  simp only []
  split
  · exact hs.next (keepsNext_fpComplete (fun _ => keeps_fcr31 _ fun h => setFcrC_ok h _) _ _ _ _)
  · exact keepsNext_done (hs.trans (keeps_fcr31 _ fun h => mergeBits_and_eq_zero (by simp) h))

theorem keepsNext_execCtc1 (rt fs : Reg) (s : State) : KeepsNext s (execCtc1 rt fs s) := by
  refine keepsNext_fpOp (keepsNext_done ?_)
  split
  · exact keeps_writeFcr31 s _
  · exact Keeps.refl s

theorem keepsNext_execLwc1 (ft : Reg) (offset : BitVec 16) (base : Reg) (s : State) :
    KeepsNext s (execLwc1 ft offset base s) := by
  refine keepsNext_withCop (keepsNext_readMem _ _ s fun w t => keepsNext_done ?_) 1
  split
  · exact keeps_setFprLate t ft w
  · exact Keeps.refl t

/-! ## Every instruction -/

theorem exec_keeps (i : Instr) (s : State) : KeepsNext s (exec i s) := by
  cases i with
  | sll | srl | sra | sllv | srlv | srav | addu | subu | and | or | xor | nor | slt | sltu | addiu | slti | sltiu | andi
  | ori | xori | lui => exact keepsNext_writeReg _ _ s
  | add | sub | addi => exact keepsNext_writeRegOrOverflow _ _ _ s
  | mult | multu => exact keepsNext_writeHiLo _ _ s
  | div | divu => exact keepsNext_divide _ _ _ s
  | mfhi | mflo => exact keepsNext_readHiLo _ _ _ s
  | mthi => exact keepsNext_execMthi _ s
  | mtlo => exact keepsNext_execMtlo _ s
  | beq | bne | blez | bgtz | bltz | bgez => exact keepsNext_branchIf _ _ s
  | bltzal | bgezal => exact keepsNext_branchAndLink _ _ s
  | j | jr => exact keepsNext_branchTo (Keeps.refl s) _ _
  | jal | jalr => exact keepsNext_branchTo (keeps_setGpr s _ _) _ _
  | bc0f | bc0t | bc1f | bc1t | bc2f | bc2t | bc3f | bc3t => exact keepsNext_branchOnCop _ _ _ s
  | syscall | break_ | lwc0 | swc0 | mfc3 | swc3 => exact keepsNext_raise (Keeps.refl s) _
  | cfc0 | ctc0 => exact keepsNext_withCop (keepsNext_raise (Keeps.refl s) _) 0
  | lb | lbu | lh | lhu | lw | lwl | lwr => exact keepsNext_loadReg _ _ _ _ s
  | sb | sh | sw | swl | swr => exact keepsNext_writeMem _ _ _ _ s
  | mfc0 => exact keepsNext_withCop (keepsNext_done ((keeps_tick s _).trans (keeps_setGprLate _ _ _ _))) 0
  | mtc0 => exact keepsNext_withCop (keepsNext_done (keeps_moveToCp0 s _ _)) 0
  | rfe => exact keepsNext_execRfe s
  | tlbr => exact keepsNext_tlbOp (keeps_readTlb s _)
  | tlbwi => exact keepsNext_tlbOp (keeps_writeTlb s _ _)
  | tlbwr => exact keepsNext_tlbOp ((keeps_tickRandom s).trans (keeps_writeTlb _ _ _))
  | tlbp => exact keepsNext_execTlbp s
  | mfc2 | cfc2 | cfc3 => exact keepsNext_moveFromAbsent _ _ s
  | mtc2 | ctc2 | cop2 | mtc3 | ctc3 | cop3 => exact keepsNext_discardToAbsent _ s
  | lwc2 | lwc3 => exact keepsNext_loadToAbsent _ _ s
  | swc2 => exact keepsNext_storeFromAbsent _ _ s
  | mfc1 | cfc1 => exact keepsNext_withCop (keepsNext_done (keeps_setGprLate s _ _ _)) 1
  | mtc1 => exact keepsNext_fpOp (keepsNext_done (keeps_setFprLate s _ _))
  | ctc1 => exact keepsNext_execCtc1 _ _ s
  | lwc1 => exact keepsNext_execLwc1 _ _ _ s
  | swc1 => exact keepsNext_withCop (keepsNext_writeMem _ _ _ _ s) 1
  | addS | addD | subS | subD | mulS | mulD | divS | divD => exact keepsNext_fpBinary _ _ _ _ _ _ s
  | absS | absD | negS | negD | cvtSD | cvtSW | cvtDS | cvtDW | cvtWS | cvtWD => exact keepsNext_fpUnary _ _ _ _ _ _ s
  | movS | movD => exact keepsNext_fpMove _ _ _ s
  | cFS | cFD | cUnS | cUnD | cEqS | cEqD | cUeqS | cUeqD | cOltS | cOltD | cUltS | cUltD | cOleS | cOleD | cUleS | cUleD
  | cSfS | cSfD | cNgleS | cNgleD | cSeqS | cSeqD | cNglS | cNglD | cLtS | cLtD | cNgeS | cNgeD | cLeS | cLeD | cNgtS
  | cNgtD => exact keepsNext_fpCompare _ _ _ _ _ s

theorem execReserved_keeps (e : DecodeError) (s : State) : KeepsNext s (execReserved e s) := by
  have ri : KeepsNext s (raise .ri s) := keepsNext_raise (Keeps.refl s) _
  cases e with
  | reservedOpcode | reservedFunct | reservedRegimm | truncated => exact ri
  | reservedCopMove z => exact keepsNext_withCop ri z
  | reservedCop0Operation => exact keepsNext_withCop ri 0
  | unimplementedFpOperation => exact keepsNext_fpOp (keepsNext_fpDecline s)

theorem runWord_keeps (w : Word) (s : State) : KeepsNext s (runWord w s) := by
  unfold runWord
  split
  · exact exec_keeps _ s
  · exact execReserved_keeps _ s

/-! ## The step -/

theorem keeps_begin (s : State) : Keeps s s.begin := by
  obtain ⟨g, hi, lo, f, r, n, o, l, h, h0, -⟩ := begin_eq s
  rw [h]
  exact ⟨rfl, id, id, id, fun hs => h0.trans hs, id, id⟩

theorem keeps_interrupted (s : State) : Keeps s s.interrupted := by
  obtain ⟨g, r, hg, h0, -⟩ := settleReads_eq s.rotated
  have h0' : s.interrupted.gpr[0] = s.gpr[0] := by
    unfold State.interrupted; simp only [hg]; exact h0
  exact ⟨rfl, id, id, id, fun hs => h0'.trans hs, id, id⟩

theorem keeps_wake (s : State) : Keeps s s.wake := by
  unfold State.wake
  split
  · exact Keeps.refl s
  · exact ⟨rfl, id, id, id, id, id, id⟩

theorem cpuStep_keeps (s : State) : KeepsNext s (cpuStep s) := by
  unfold cpuStep
  split
  · exact keepsNext_next (keeps_wake s)
  · split
    · exact keepsNext_raise (keeps_interrupted s) _
    · exact (keeps_begin s).next (keepsNext_andThen (fetch_keeps _) runWord_keeps)

/-! ### The environment's events -/

theorem keeps_setDLineAt (s : State) (i : Nat) (l : DLine) : Keeps s (s.setDLineAt i l) :=
  ⟨rfl, fun ⟨hm, hd, hi⟩ => ⟨hm, sparseSet_wf hd _ _, hi⟩, id, id, id, id, id⟩

theorem keeps_setILineAt (s : State) (i : Nat) (l : ILine) : Keeps s (s.setILineAt i l) :=
  ⟨rfl, fun ⟨hm, hd, hi⟩ => ⟨hm, hd, sparseSet_wf hi _ _⟩, id, id, id, id, id⟩

theorem keeps_dmaWrite (s : State) (a : Word) (v : Byte) (coherent : Bool) : Keeps s (s.dmaWrite a v coherent) := by
  have hw : Keeps s { s with mem := writeByte s.cfg s.mem a v } :=
    ⟨rfl, fun ⟨hm, hd, hi⟩ => ⟨writeByte_wf hm _ _, hd, hi⟩, id, id, id, id, id⟩
  unfold State.dmaWrite
  simp only []
  split
  · exact hw.trans (keeps_setDLine _ _ _)
  · exact hw

theorem keeps_parityError (s : State) (inICache : Bool) (index : Nat) (v : Word) :
    Keeps s (s.parityError inICache index v) := by
  unfold State.parityError
  split
  · exact Keeps.refl s
  · have hline : Keeps s (if inICache
        then s.setILineAt index { s.iLineAt index with words := Vector.replicate 4 v }
        else s.setDLineAt index { s.dLineAt index with data := v }) := by
      split
      · exact keeps_setILineAt s _ _
      · exact keeps_setDLineAt s _ _
    simp only []
    split
    · exact hline
    · exact hline.trans (keeps_updateSr _ fun sr h => (setBit_and (by decide) sr true).trans h)

theorem keeps_trashLoads (s : State) : Keeps s s.trashLoads := by
  have hg : Keeps s (match s.pipe.gprLate with | some l => s.setGpr l.reg (s.free .resetTrash) | none => s) := by
    split
    · exact keeps_setGpr s _ _
    · exact Keeps.refl s
  unfold State.trashLoads
  simp only []
  split
  · exact hg.trans (keeps_setFpr _ _ _)
  · exact hg

theorem keeps_trashLines (s : State) (dLine iLine : Option Nat) : Keeps s (s.trashLines dLine iLine) := by
  cases dLine <;> cases iLine
  · exact Keeps.refl s
  · exact keeps_setILineAt s _ _
  · exact keeps_setDLineAt s _ _
  · exact (keeps_setDLineAt s _ _).trans (keeps_setILineAt _ _ _)

theorem warmCp0_ok {s : State} (h : Cp0Ok s.cp0) : Cp0Ok s.warmCp0 := by
  have hrun : Cp0Ok (if s.cfg.is3041 then (s.tickCount .warmReset).cp0 else s.cp0) := by
    split
    · exact tickCount_cp0_ok h _
    · exact h
  obtain ⟨-, hcause, hhi, hlo, hctx, -⟩ := hrun
  refine ⟨mergeBits_and_eq_zero (by simp) ?_, hcause, hhi, hlo, hctx, (by decide : 8 ≤ (63 : BitVec 6).toNat)⟩
  unfold resetSr
  split <;> decide

theorem keeps_warmReset (s : State) (dLine iLine : Option Nat) : Keeps s (s.warmReset dLine iLine) := by
  have hbuf : Keeps s (if s.choose .resetBuffer then { s with wbuf := [] } else s.drain) := by
    split
    · exact ⟨rfl, id, id, id, id, fun _ => Nat.zero_le 4, id⟩
    · exact keeps_drain s
  have hm := (hbuf.trans (keeps_trashLoads _)).trans (keeps_trashLines _ dLine iLine)
  exact ⟨hm.cfg, hm.contents, warmCp0_ok, hm.fcr31, hm.gpr, hm.wbuf, fun _ => Nat.zero_le 2⟩

theorem keeps_applyEvent (s : State) (e : Event) : Keeps s (s.applyEvent e) := by
  cases e with
  | cpu => exact Keeps.refl s
  | pins => exact ⟨rfl, id, id, id, id, id, id⟩
  | retire => exact keeps_retire s
  | dmaWrite a v coherent => exact keeps_dmaWrite s a v coherent
  | parityError inICache index v => exact keeps_parityError s inICache index v
  | reset dLine iLine => exact keeps_warmReset s dLine iLine

theorem step_keeps (s : State) : KeepsNext s (Machine.step s) := by
  have drop (rest : List Event) : Keeps s { s with events := rest } := ⟨rfl, id, id, id, id, id, id⟩
  unfold Machine.step
  split
  · exact cpuStep_keeps s
  · exact (drop _).next (cpuStep_keeps _)
  · exact keepsNext_next ((drop _).trans (keeps_applyEvent _ _))

/-- Settles O3: each operation an instruction or an event is built from keeps every part of the invariant. -/
theorem stepKeepsInvariant : Obligations.StepKeepsInvariant :=
  fun s t hs h => (step_keeps s t h).machineInv hs

/-! ## Reset -/

/-- Settles O2. -/
theorem resetEstablishesInvariant : Obligations.ResetEstablishesInvariant := by
  intro c
  have hsr : resetSr c &&& 0x0D8000C0 = 0 := by
    unfold resetSr
    split <;> decide
  have hzero : ZeroFields (State.resetOf c) :=
    ⟨hsr, BitVec.zero_and, BitVec.zero_and, BitVec.zero_and, BitVec.zero_and, BitVec.zero_and⟩
  exact ⟨⟨rfl, rfl, rfl⟩, hzero, rfl, (by decide : 8 ≤ (63 : BitVec 6).toNat), Nat.zero_le _, Nat.zero_le _⟩

/-! ## What one step is -/

theorem step_of_no_events {s : State} (h : s.events = []) : Machine.step s = cpuStep s := by
  unfold Machine.step; rw [h]

theorem cpuStep_of_halted {s : State} (h : s.halted = true) : cpuStep s = .next s.wake := by
  unfold cpuStep; rw [if_pos h]

theorem cpuStep_of_interrupt {s : State} (hh : s.halted = false) (hi : s.interruptPending = true) :
    cpuStep s = .next (s.interrupted.takeException .int) := by
  unfold cpuStep; rw [if_neg (by simp [hh]), if_pos hi]; rfl

theorem cpuStep_of_no_interrupt {s : State} (hh : s.halted = false) (hi : s.interruptPending = false) :
    cpuStep s = s.begin.fetch.andThen runWord := by
  unfold cpuStep; rw [if_neg (by simp [hh]), if_neg (by simp [hi])]

/-! ## Config.Halt (10_state.md R60) -/

theorem wake_of_no_pin {s : State} (h : s.pins.int = 0) : s.wake = s := by
  unfold State.wake; rw [if_pos h]

theorem wake_of_pin {s : State} (h : s.pins.int ≠ 0) :
    s.wake = { s.draw with cp0 := { s.cp0 with config := setBit s.cp0.config 25 false } } := by
  unfold State.wake; rw [if_neg h]

/-- Settles O11. -/
theorem haltWaitsForInterruptInput : Obligations.HaltWaitsForInterruptInput := by
  intro s hev hpart hbit
  have hstep : Machine.step s = .next s.wake := by
    rw [step_of_no_events hev, cpuStep_of_halted (by simp [State.halted, hpart, hbit])]
  refine ⟨fun hpin => by rw [hstep, wake_of_no_pin hpin], fun hpin => ?_⟩
  rw [wake_of_pin hpin] at hstep
  refine ⟨_, hstep, ?_, rfl, rfl, rfl, rfl, ?_⟩
  · simp [State.halted, setBit]
  · simp [setBit, BitVec.and_assoc]

/-! ## Interrupts (10_state.md R48, R59, 60_exceptions.md R522) -/

theorem fpPins_of_noFpa {s : State} (h : s.cfg.hasFpa = false) : s.fpPins = 0 := by
  unfold State.fpPins; simp [h]

/-- Config.FPInt below 6 names the one input the FPA drives. -/
theorem fpPins_of_fpa {s : State} (hl : NoRecentMtc0 s) (hf : s.cfg.hasFpa = true)
    (hn : (s.cp0.config.extractLsb' 26 3).toNat < 6) : s.fpPins = 1#6 <<< (s.cp0.config.extractLsb' 26 3).toNat := by
  unfold State.fpPins State.configView
  rw [cp0View_nil hl, if_neg (by simp [hf]), if_pos hn]

/-- An input of Cause.IP is its pin, or the FPA's request where the FPA drives it. -/
theorem ipBits_getLsbD (s : State) {k : Nat} (hk : k < 6) :
    s.ipBits.getLsbD (10 + k) = if s.fpPins.getLsbD k then fpRequest s.fcr31 else s.pins.int.getLsbD k := by
  unfold State.ipBits
  have hwide : k < 32 ∧ 10 + k < 32 := by omega
  cases h : s.fpPins[k] <;> cases fpRequest s.fcr31 <;> simp [h, hk, hwide]

/-- With no recent `mtc0` the interrupt is due exactly when R522 says. -/
theorem interruptPending_of_no_recent {s : State} (hl : NoRecentMtc0 s) :
    s.interruptPending =
      (s.cp0.sr.getLsbD 0 && (s.ipBits ||| (s.cp0.cause &&& 0x300)) &&& s.cp0.sr &&& 0xFF00 != 0) := by
  unfold State.interruptPending State.interruptBy
  rw [atBoundary_nil hl]
  simp [recent_nil hl, irqCondition, BitVec.and_assoc]

/-- Settles O10. -/
theorem interruptTakenBeforeInstruction : Obligations.InterruptTakenBeforeInstruction := by
  refine ⟨fun s hl k hk => ⟨fun hf => ?_, fun hf hn => ?_⟩, fun s hev hhalt hl => ⟨fun hie hip => ?_, fun hno => ?_⟩⟩
  · rw [ipBits_getLsbD s hk, fpPins_of_noFpa hf]
    simp
  · rw [ipBits_getLsbD s hk, fpPins_of_fpa hl hf hn]
    rw [show 1#6 <<< (s.cp0.config.extractLsb' 26 3).toNat = BitVec.twoPow 6 _ from rfl, BitVec.getLsbD_twoPow]
    simp only [hn, decide_true, Bool.true_and, decide_eq_true_eq]
    rfl
  · have hdue : s.interruptPending = true := by
      rw [interruptPending_of_no_recent hl, hie]; simpa using hip
    have hstep := (step_of_no_events hev).trans (cpuStep_of_interrupt hhalt hdue)
    obtain ⟨heq, hreg⟩ := interrupted_eq s
    refine ⟨fun hr => ?_, s.interrupted, hstep, ?_, hreg⟩
    · rw [hstep, interrupted_of_quiet hr, atBoundary_nil hl]
    · rwa [atBoundary_nil hl] at heq
  · have hnot : s.interruptPending = false := by
      rw [interruptPending_of_no_recent hl]
      rcases hno with h | h <;> rw [h] <;> simp
    exact (step_of_no_events hev).trans (cpuStep_of_no_interrupt hhalt hnot)

/-! ## Operands (70_reset_and_hazards.md R590, R596) -/

theorem src_of_not_pending {s : State} {r : Reg} (h : ∀ l, s.pipe.gprShadow = some l → l.reg ≠ r) :
    s.src r = s.gprAt r := by
  unfold State.src
  split
  · rename_i l hl
    exact if_neg fun ⟨hr, _⟩ => h l hl hr
  · rfl

theorem src_of_pending {s : State} {r : Reg} {l : GprLate} (h : s.pipe.gprShadow = some l) :
    s.src r = l.old ∨ s.src r = s.gprAt r := by
  rcases src_cases s r with hs | ⟨k, hk, -, hs⟩
  · exact .inr hs
  · rw [h] at hk
    cases hk
    exact .inl hs

/-- `lwl` and `lwr` see the contents where nothing is pending on the register, and behind a load. -/
theorem mergeSrc_of_not_moved {s : State} {r : Reg}
    (h : ∀ l, s.pipe.gprShadow = some l → l.reg = r → l.isLoad = true) : s.mergeSrc r = s.gprAt r := by
  unfold State.mergeSrc
  split
  · rename_i l hl
    refine if_neg fun ⟨hr, _, hload⟩ => ?_
    rw [h l hl hr] at hload
    cases hload
  · rfl

theorem mergeSrc_of_pending {s : State} {r : Reg} {l : GprLate} (h : s.pipe.gprShadow = some l) :
    s.mergeSrc r = l.old ∨ s.mergeSrc r = s.gprAt r := by
  unfold State.mergeSrc
  rw [h]
  simp only []
  split
  · exact oldOrNew_cases s _ _ _
  · exact .inr rfl

theorem srcFpr_of_not_pending {s : State} {r : Reg} (h : ∀ l, s.pipe.fprShadow = some l → l.reg ≠ r) :
    s.srcFpr r = s.fprAt r := by
  unfold State.srcFpr
  split
  · rename_i l hl
    exact if_neg (h l hl)
  · rfl

theorem srcFpr_of_pending {s : State} {r : Reg} {l : FprLate} (h : s.pipe.fprShadow = some l) :
    s.srcFpr r = l.old ∨ s.srcFpr r = s.fprAt r := by
  unfold State.srcFpr
  rw [h]
  simp only []
  split
  · exact oldOrNew_cases s _ _ _
  · exact .inr rfl

/-- Settles O14. -/
theorem sourceOperandReads : Obligations.SourceOperandReads := fun s _ =>
  ⟨src_zero s, src_of_not_pending, fun _ hl _ _ => src_of_pending hl,
    fun h => mergeSrc_of_not_moved fun l hl hr => absurd hr (h l hl),
    fun l hl hload => mergeSrc_of_not_moved fun k hk _ => by rw [hl] at hk; cases hk; exact hload,
    fun _ hl _ _ _ => mergeSrc_of_pending hl, srcFpr_of_not_pending, fun _ hl _ => srcFpr_of_pending hl⟩

/-! ## The write buffer (20_memory.md R130-R132) -/

theorem retire_wbuf (s : State) : s.retire.wbuf = s.wbuf.tail := by
  unfold State.retire
  split <;> simp_all

/-- Settles O32: what memory will hold is the same before and after a retirement, and a push adds its entry last. -/
theorem writeBufferIsFifo : Obligations.WriteBufferIsFifo := fun s e =>
  ⟨settledByte_congr (retire_drain s), settledByte_congr (congrArg State.mem (drain_drain s)), retire_wbuf s,
    fun h => pushStore_wbuf_length h e, settledByte_congr (pushStore_drain s e)⟩

/-! ## Rounding (10_state.md R76) -/

/-- With nothing dropped nothing is rounded, whatever the mode. -/
theorem roundShift_of_exact (rm : BitVec 2) (neg : Bool) {m k : Nat} (h : m % 2 ^ k = 0) :
    roundShift rm neg m k false = m / 2 ^ k := by
  simp [roundShift, roundsUp, h]

theorem roundShift_nearest (neg : Bool) (m k : Nat) :
    roundShift 0 neg m k false =
      if 2 ^ k < 2 * (m % 2 ^ k) ∨ (2 * (m % 2 ^ k) = 2 ^ k ∧ m / 2 ^ k % 2 = 1) then m / 2 ^ k + 1 else m / 2 ^ k := by
  have hP : 0 < 2 ^ k := by positivity
  by_cases h : m % 2 ^ k = 0
  · rw [roundShift_of_exact 0 neg h, if_neg (by omega)]
  · simp [roundShift, roundsUp, h]

theorem roundShift_zero (neg : Bool) (m k : Nat) : roundShift 1 neg m k false = m / 2 ^ k := by
  simp [roundShift, roundsUp]

/-- Mode 2 rounds a positive magnitude up, mode 3 a negative one. -/
theorem roundShift_away {rm : BitVec 2} {neg : Bool} (h : rm = 2 ∧ neg = false ∨ rm = 3 ∧ neg = true) (m k : Nat) :
    roundShift rm neg m k false = if m % 2 ^ k = 0 then m / 2 ^ k else m / 2 ^ k + 1 := by
  rcases h with ⟨rfl, rfl⟩ | ⟨rfl, rfl⟩ <;> by_cases h : m % 2 ^ k = 0 <;> simp [roundShift, roundsUp, h]

/-- Mode 2 truncates a negative magnitude, mode 3 a positive one. -/
theorem roundShift_towards {rm : BitVec 2} {neg : Bool} (h : rm = 2 ∧ neg = true ∨ rm = 3 ∧ neg = false) (m k : Nat) :
    roundShift rm neg m k false = m / 2 ^ k := by
  rcases h with ⟨rfl, rfl⟩ | ⟨rfl, rfl⟩ <;> simp [roundShift, roundsUp]

theorem nearest_bounds (neg : Bool) (m k : Nat) :
    let q := roundShift 0 neg m k false
    2 * (q * 2 ^ k) ≤ 2 * m + 2 ^ k ∧ 2 * m ≤ 2 * (q * 2 ^ k) + 2 ^ k ∧
      ((2 * (q * 2 ^ k) = 2 * m + 2 ^ k ∨ 2 * m = 2 * (q * 2 ^ k) + 2 ^ k) → q % 2 = 0) := by
  have hP : 0 < 2 ^ k := by positivity
  have hm := Nat.div_add_mod' m (2 ^ k)
  have hr := Nat.mod_lt m hP
  simp only [roundShift_nearest]
  split
  · rw [Nat.add_mul, Nat.one_mul]; omega
  · omega

theorem away_bounds {rm : BitVec 2} {neg : Bool} (h : rm = 2 ∧ neg = false ∨ rm = 3 ∧ neg = true) (m k : Nat) :
    m ≤ roundShift rm neg m k false * 2 ^ k ∧ roundShift rm neg m k false * 2 ^ k < m + 2 ^ k := by
  have hP : 0 < 2 ^ k := by positivity
  have hm := Nat.div_add_mod' m (2 ^ k)
  have hr := Nat.mod_lt m hP
  rw [roundShift_away h]
  split
  · omega
  · rw [Nat.add_mul, Nat.one_mul]; omega

/-- Settles O56. -/
theorem roundingModes : Obligations.RoundingModes := by
  intro neg m k
  have hP : 0 < 2 ^ k := by positivity
  refine ⟨nearest_bounds neg m k, ?_, fun hn => ?_, fun hn => ?_⟩
  · simp only [roundShift_zero]
    exact ⟨Nat.div_mul_le_self m _, Nat.lt_mul_of_div_lt (Nat.lt_succ_self _) hP⟩
  · obtain ⟨hle, hlt⟩ := away_bounds (.inl ⟨rfl, hn⟩) m k
    exact ⟨hle, hlt, (roundShift_towards (.inr ⟨rfl, hn⟩) m k).trans (roundShift_zero neg m k).symm⟩
  · obtain ⟨hle, hlt⟩ := away_bounds (.inr ⟨rfl, hn⟩) m k
    exact ⟨hle, hlt, (roundShift_towards (.inl ⟨rfl, hn⟩) m k).trans (roundShift_zero neg m k).symm⟩

/-! ## Packing and unpacking (46_coprocessor_fpa.md R373) -/

/-- Three fields of a number, read by division: the low one below `2 ^ j`, the middle one below `2 ^ k`. -/
theorem fields_of_sum {j k lo mid hi : Nat} (hlo : lo < 2 ^ j) (hmid : mid < 2 ^ k) :
    let x := lo + 2 ^ j * (mid + 2 ^ k * hi)
    x % 2 ^ j = lo ∧ x / 2 ^ j % 2 ^ k = mid ∧ x / 2 ^ (j + k) = hi := by
  have hj : 0 < 2 ^ j := by positivity
  have hk : 0 < 2 ^ k := by positivity
  simp only [Nat.pow_add, ← Nat.div_div_eq_div_mul, Nat.add_mul_mod_self_left, Nat.add_mul_div_left _ _ hj,
    Nat.add_mul_div_left _ _ hk, Nat.div_eq_of_lt hlo, Nat.div_eq_of_lt hmid, Nat.mod_eq_of_lt hlo,
    Nat.mod_eq_of_lt hmid, Nat.zero_add, and_self]

theorem pack_toNat {f : FpFormat} (hf : f.mant + f.expo < 64) (neg : Bool) {e m : Nat} (he : e < 2 ^ f.expo)
    (hm : m < 2 ^ f.mant) :
    (f.pack neg e m).toNat = m + 2 ^ f.mant * (e + 2 ^ f.expo * (if neg then 1 else 0)) := by
  have hsum : (if neg then 2 ^ (f.mant + f.expo) else 0) + e * 2 ^ f.mant + m
      = m + 2 ^ f.mant * (e + 2 ^ f.expo * (if neg then 1 else 0)) := by
    cases neg <;> simp [Nat.pow_add] <;> ring
  have hfields : m + 2 ^ f.mant * e < 2 ^ (f.mant + f.expo) := by
    rw [Nat.pow_add]
    calc m + 2 ^ f.mant * e < 2 ^ f.mant * (e + 1) := by rw [Nat.mul_succ]; omega
      _ ≤ 2 ^ f.mant * 2 ^ f.expo := Nat.mul_le_mul_left _ he
  have hword : 2 * 2 ^ (f.mant + f.expo) ≤ 2 ^ 64 := by
    rw [← Nat.pow_succ']
    exact Nat.pow_le_pow_right (by decide) hf
  have hlt : m + 2 ^ f.mant * (e + 2 ^ f.expo * (if neg then 1 else 0)) < 2 ^ 64 := by
    rw [Nat.mul_add, ← Nat.mul_assoc, ← Nat.pow_add]
    cases neg <;> simp only [Bool.false_eq_true, if_true, if_false] <;> omega
  unfold FpFormat.pack
  rw [BitVec.toNat_ofNat, hsum, Nat.mod_eq_of_lt hlt]

/-- The bits of a normalized number read as that number, in any format that fits 64 bits. -/
theorem unpack_pack {f : FpFormat} (hf : f.mant + f.expo < 64) (neg : Bool) {e m : Nat} (he : 0 < e)
    (he' : e < f.maxField) (hm : m < 2 ^ f.mant) :
    f.unpack (f.pack neg e m) = .finite neg (2 ^ f.mant + m) ((e : Int) - f.bias - f.mant) := by
  have hfield : e < 2 ^ f.expo := he'.trans_le (Nat.sub_le _ _)
  obtain ⟨hmant, hexpo, hsign⟩ := fields_of_sum (hi := if neg then 1 else 0) hm hfield
  have hneg : ((if neg then 1 else 0) % 2 == 1) = neg := by cases neg <;> rfl
  unfold FpFormat.unpack
  simp only [pack_toNat hf neg hfield hm, hmant, hexpo, hsign, hneg, Nat.pos_iff_ne_zero.mp he, he'.ne, if_false]

/-! ## A result without exceptions (10_state.md R77, 46_coprocessor_fpa.md R378) -/

/-- How many low bits of `m` a significand of `f` has no place for. -/
def droppedBits (f : FpFormat) (m : Nat) : Nat := Nat.log2 m + 1 - (f.mant + 1)

/-- The significand of `f` for the leading bits of `m`: those below are dropped, missing ones are zeros. -/
def significand (f : FpFormat) (m : Nat) : Nat := m / 2 ^ droppedBits f m * 2 ^ (f.mant + 1 - (Nat.log2 m + 1))

/-- With the dropped bits all zero the significand is `m` scaled by a power of two. -/
theorem significand_mul {f : FpFormat} {m : Nat} (h : m % 2 ^ droppedBits f m = 0) :
    significand f m * 2 ^ droppedBits f m = m * 2 ^ (f.mant + 1 - (Nat.log2 m + 1)) := by
  unfold significand
  rw [Nat.mul_right_comm, Nat.div_mul_cancel (Nat.dvd_of_mod_eq_zero h)]

/-- The significand of a normalized number has `mant + 1` bits. -/
theorem significand_bounds {f : FpFormat} {m : Nat} (hm : 0 < m) (h : m % 2 ^ droppedBits f m = 0) :
    2 ^ f.mant ≤ significand f m ∧ significand f m < 2 ^ (f.mant + 1) := by
  have hlow : 2 ^ Nat.log2 m ≤ m := Nat.log2_self_le hm.ne'
  have hhigh : m < 2 ^ (Nat.log2 m + 1) := Nat.lt_log2_self
  have hmul := significand_mul h
  have hdrop : 0 < 2 ^ droppedBits f m := by positivity
  have hlift : 0 < 2 ^ (f.mant + 1 - (Nat.log2 m + 1)) := by positivity
  have hlen : Nat.log2 m + (f.mant + 1 - (Nat.log2 m + 1)) = f.mant + droppedBits f m := by unfold droppedBits; omega
  constructor
  · refine Nat.le_of_mul_le_mul_right ?_ hdrop
    rw [hmul, ← Nat.pow_add, ← hlen, Nat.pow_add]
    exact Nat.mul_le_mul_right _ hlow
  · refine Nat.lt_of_mul_lt_mul_right (a := 2 ^ droppedBits f m) ?_
    rw [hmul, ← Nat.pow_add, show f.mant + 1 + droppedBits f m
      = Nat.log2 m + 1 + (f.mant + 1 - (Nat.log2 m + 1)) by omega, Nat.pow_add]
    exact Nat.mul_lt_mul_of_pos_right hhigh hlift

/-- The exponent of the leading bit of `m * 2 ^ e`. -/
def topExponent (m : Nat) (e : Int) : Int := e + (Nat.log2 m + 1 : Nat) - 1

/-- The value of the significand at its exponent is the exact value. -/
theorem significand_value {f : FpFormat} {m : Nat} (h : m % 2 ^ droppedBits f m = 0) (e : Int) :
    (significand f m : ℚ) * (2 : ℚ) ^ (topExponent m e - f.mant) = (m : ℚ) * (2 : ℚ) ^ e := by
  have hmul : (significand f m : ℚ) * 2 ^ droppedBits f m = m * 2 ^ (f.mant + 1 - (Nat.log2 m + 1)) := by
    exact_mod_cast significand_mul h
  have hexp : topExponent m e - f.mant = droppedBits f m + (e - (f.mant + 1 - (Nat.log2 m + 1) : Nat)) := by
    unfold topExponent droppedBits; omega
  rw [hexp, zpow_add₀ two_ne_zero, zpow_natCast, ← mul_assoc, hmul, mul_assoc, ← zpow_natCast, ← zpow_add₀ two_ne_zero]
  congr 2
  omega

/-- What `FpFormat.round` answers without an exception: no bit is dropped, the exponent is one of the normalized numbers,
and the result is the significand packed. -/
theorem round_without_exception {f : FpFormat} {rm : BitVec 2} {tiny neg : Bool} {m : Nat} {e : Int} {r : BitVec 64}
    (hm : 0 < m) (h : f.round rm tiny neg m e false = .must r excNone) :
    m % 2 ^ droppedBits f m = 0 ∧ f.emin ≤ topExponent m e ∧ topExponent m e ≤ f.emax ∧
      r = f.pack neg (topExponent m e + f.bias).toNat (significand f m - 2 ^ f.mant) := by
  unfold FpFormat.round at h
  simp only [] at h
  rcases ite_eq_iff.mp h with ⟨-, h⟩ | ⟨hmin, h⟩
  · split at h <;> cases h
  rcases ite_eq_iff.mp h with ⟨-, h⟩ | ⟨hmax, h⟩
  · injection h with _ hexc
    cases hexc
  injection h with hr hexc
  have hexact : m % 2 ^ droppedBits f m = 0 := by
    by_contra hne
    have : (m % 2 ^ (Nat.log2 m + 1 - (f.mant + 1)) != 0 || false) = true := by simpa [droppedBits] using hne
    rw [if_pos this] at hexc
    cases hexc
  have hkept : roundShift rm neg m (Nat.log2 m + 1 - (f.mant + 1)) false * 2 ^ (f.mant + 1 - (Nat.log2 m + 1))
      = significand f m := congrArg (· * _) (roundShift_of_exact rm neg hexact)
  have hcarry : (significand f m == 2 ^ (f.mant + 1)) = false := by simpa using (significand_bounds hm hexact).2.ne
  rw [hkept, hcarry] at hr hmax
  exact ⟨hexact, not_lt.mp hmin, not_lt.mp hmax, hr.symm⟩

/-- In any format that fits 64 bits, a result without an exception is a number of the sign given and the exact value. -/
theorem exact_of_round_without_exception {f : FpFormat} (hf : f.mant + f.expo < 64) (hexpo : 0 < f.expo) {rm : BitVec 2}
    {tiny neg : Bool} {m : Nat} {e : Int} {r : BitVec 64} (hm : 0 < m)
    (h : f.round rm tiny neg m e false = .must r excNone) :
    f.unpack r = .finite neg (significand f m) (topExponent m e - f.mant) ∧
      (significand f m : ℚ) * (2 : ℚ) ^ (topExponent m e - f.mant) = (m : ℚ) * (2 : ℚ) ^ e := by
  obtain ⟨hexact, hmin, hmax, rfl⟩ := round_without_exception hm h
  obtain ⟨hlow, hhigh⟩ := significand_bounds hm hexact
  have hfields : f.maxField = 2 * f.bias + 1 := by
    have : 2 ^ f.expo = 2 * 2 ^ (f.expo - 1) := by
      rw [← Nat.pow_succ', Nat.succ_eq_add_one, Nat.sub_add_cancel hexpo]
    have : 0 < 2 ^ (f.expo - 1) := by positivity
    unfold FpFormat.maxField FpFormat.bias
    omega
  unfold FpFormat.emin at hmin
  unfold FpFormat.emax at hmax
  refine ⟨?_, significand_value hexact e⟩
  rw [unpack_pack hf neg (by omega) (by omega) (by rw [Nat.pow_succ] at hhigh; omega), Nat.add_sub_cancel' hlow,
    Int.toNat_of_nonneg (by omega)]
  congr 1
  ring

/-- Settles O57. -/
theorem fpResultWithoutInexactIsExact : Obligations.FpResultWithoutInexactIsExact := by
  intro f hf rm tiny neg m e r hm h
  have hsize : f.mant + f.expo < 64 ∧ 0 < f.expo := by
    rcases List.mem_pair.mp hf with rfl | rfl <;> decide
  exact ⟨_, _, exact_of_round_without_exception hsize.1 hsize.2 hm h⟩

end Sys2Proof.Proofs

/-! Memory: the translation of addresses, the bytes of a word, the fetch, the loads and stores through the caches and the
bus. -/

namespace Sys2Proof.Proofs

open Sys2Proof.Machine Sys2Proof.Laws

/-! ## The regions of the address map (20_memory.md R105, R107) -/

/-- The top three bits of an address are its place among the eight 512 MB segments. -/
theorem segment_eq_iff (va : Word) (k : BitVec 3) : va.extractLsb' 29 3 = k ↔ va.toNat / 0x20000000 = k.toNat := by
  rw [← BitVec.toNat_inj, BitVec.extractLsb'_toNat, Nat.shiftRight_eq_div_pow]
  have := va.isLt
  omega

theorem msb_eq_true_iff (va : Word) : va.msb = true ↔ 0x80000000 ≤ va.toNat := by
  simp [BitVec.msb_eq_decide]

theorem and_segment_mask_toNat (va : Word) : (va &&& 0x1FFFFFFF).toNat = va.toNat % 0x20000000 := by
  rw [BitVec.toNat_and]
  exact Nat.and_two_pow_sub_one_eq_mod va.toNat 29

/-- Clearing the top three bits takes the segment's base away. -/
theorem and_segment_mask {va base : Word} (h : va.toNat / 0x20000000 * 0x20000000 = base.toNat) :
    va &&& 0x1FFFFFFF = va - base := by
  have := va.isLt
  apply BitVec.eq_of_toNat_eq
  rw [and_segment_mask_toNat, BitVec.toNat_sub]
  omega

theorem fixedMap_kseg0 (c : Config) {va : Word} (hlo : 0x80000000 ≤ va.toNat) (hhi : va.toNat < 0xA0000000) :
    fixedMap c va = some (va - 0x80000000, false) := by
  unfold fixedMap
  rw [if_pos ((segment_eq_iff va 0b100).mpr (by simp; omega)),
    and_segment_mask (base := 0x80000000) (by simp only [BitVec.reduceToNat]; omega)]

theorem fixedMap_kseg1 (c : Config) {va : Word} (hlo : 0xA0000000 ≤ va.toNat) (hhi : va.toNat < 0xC0000000) :
    fixedMap c va = some (va - 0xA0000000, true) := by
  unfold fixedMap
  rw [if_neg (mt (segment_eq_iff va 0b100).mp (by simp; omega)),
    if_pos ((segment_eq_iff va 0b101).mpr (by simp; omega)),
    and_segment_mask (base := 0xA0000000) (by simp only [BitVec.reduceToNat]; omega)]

/-- kuseg and kseg2 go through the TLB where there is one, else through the base map. -/
theorem fixedMap_of_mapped (c : Config) {va : Word} (h : va.msb = false ∨ 0xC0000000 ≤ va.toNat) :
    fixedMap c va = if c.hasMmu then none else if va.msb then some (va, c.baseMappedUncached)
      else some (va + 0x40000000, c.baseMappedUncached) := by
  have hseg : va.toNat / 0x20000000 ≠ 4 ∧ va.toNat / 0x20000000 ≠ 5 := by
    rw [← Bool.not_eq_true, msb_eq_true_iff] at h
    omega
  unfold fixedMap
  rw [if_neg (mt (segment_eq_iff va 0b100).mp hseg.1), if_neg (mt (segment_eq_iff va 0b101).mp hseg.2)]

/-! ## Translation by case -/

theorem translate_of_user_upper {s : State} {va : Word} (hu : s.userMode = true) (hva : va.msb = true) (st : Bool) :
    s.translate va st = .exc (if st then .ades va else .adel va) := by
  unfold State.translate
  rw [hu, hva]
  rfl

theorem translate_of_fixed {s : State} {va pa : Word} {u : Bool} (hp : s.userMode = false ∨ va.msb = false)
    (h : fixedMap s.cfg va = some (pa, u)) (st : Bool) : s.translate va st = .ok pa u := by
  unfold State.translate
  rw [if_neg (by rcases hp with hp | hp <;> simp [hp]), h]

theorem translate_of_mapped {s : State} {va : Word} (hp : s.userMode = false ∨ va.msb = false)
    (h : fixedMap s.cfg va = none) (st : Bool) : s.translate va st = s.translateMapped 1 va st := by
  unfold State.translate
  rw [if_neg (by rcases hp with hp | hp <;> simp [hp]), h]

/-- Settles O33. -/
theorem fixedTranslation : Obligations.FixedTranslation := by
  intro s va st
  refine ⟨fun hu hva => translate_of_user_upper hu hva st,
    fun hu hlo hhi => translate_of_fixed (.inl hu) (fixedMap_kseg0 s.cfg hlo hhi) st,
    fun hu hlo hhi => translate_of_fixed (.inl hu) (fixedMap_kseg1 s.cfg hlo hhi) st,
    fun hmmu hva => ?_, fun hmmu hu hva => ?_⟩
  · have hmsb : va.msb = false := by
      rw [← Bool.not_eq_true, msb_eq_true_iff]; omega
    exact translate_of_fixed (.inr hmsb) (by rw [fixedMap_of_mapped _ (.inl hmsb), hmmu, hmsb]; rfl) st
  · have hmsb : va.msb = true := by
      rw [msb_eq_true_iff]; omega
    exact translate_of_fixed (.inl hu) (by rw [fixedMap_of_mapped _ (.inr hva), hmmu, hmsb]; rfl) st

/-! ## The TLB (20_memory.md R113-R118) -/

/-- With no TLB write in flight an operation sees the TLB as it is (70_reset_and_hazards.md R600). -/
theorem tlbView_of_settled {s : State} (h : s.pipe.tlbLate = []) (n : Nat) (i : BitVec 6) :
    s.tlbView n i = s.tlb[i.toNat]'i.isLt := by
  unfold State.tlbView
  rw [h]
  rfl

theorem asidView_of_no_recent {s : State} (h : NoRecentMtc0 s) : s.asidView = s.cp0.entryHi.extractLsb' 6 6 := by
  unfold State.asidView
  rw [cp0View_nil h]

theorem hits_iff (e : TlbEntry) (vpn : BitVec 20) (asid : BitVec 6) :
    e.hits vpn asid = true ↔
      e.hi.extractLsb' 12 20 = vpn ∧ (e.lo.getLsbD 8 = true ∨ e.hi.extractLsb' 6 6 = asid) := by
  simp [TlbEntry.hits, TlbEntry.vpn, TlbEntry.global, TlbEntry.asid]

theorem mem_tlbMatches_iff {s : State} {n : Nat} {vpn : BitVec 20} {asid i : BitVec 6} :
    i ∈ s.tlbMatches n vpn asid ↔ (s.tlbView n i).hits vpn asid = true := by
  unfold State.tlbMatches
  have hi : i ∈ (List.range 64).map (BitVec.ofNat 6) :=
    List.mem_map.mpr ⟨i.toNat, List.mem_range.mpr i.isLt, BitVec.ofNat_toNat 6 i ▸ BitVec.setWidth_eq i⟩
  rw [List.mem_filter, and_iff_right hi]

/-- No index stands twice in the list of matches. -/
theorem tlbMatches_nodup (s : State) (n : Nat) (vpn : BitVec 20) (asid : BitVec 6) : (s.tlbMatches n vpn asid).Nodup :=
  List.Nodup.filter _ (by decide)

theorem translateIn_of_no_match {s : State} {asid : BitVec 6} {n : Nat} {va : Word} (hts : s.tlbShutDown = false)
    (h : ∀ i, i ∉ s.tlbMatches n (vpnOf va) asid) (st : Bool) :
    s.translateIn asid n va st = .exc (if st then .tlbs va true else .tlbl va true) := by
  unfold State.translateIn
  rw [hts, List.eq_nil_iff_forall_not_mem.mpr h]
  rfl

theorem translateIn_of_one_match {s : State} {asid : BitVec 6} {n : Nat} {va : Word} {i : BitVec 6}
    (hts : s.tlbShutDown = false) (hi : i ∈ s.tlbMatches n (vpnOf va) asid)
    (h : ∀ j ∈ s.tlbMatches n (vpnOf va) asid, j = i) (st : Bool) :
    s.translateIn asid n va st =
      if (s.tlbView n i).valid = false then .exc (if st then .tlbs va false else .tlbl va false)
      else if st = true ∧ (s.tlbView n i).writable = false then .exc (.mod va)
      else .ok (physical (s.tlbView n i).pfn va) (s.tlbView n i).noncacheable := by
  have hone : s.tlbMatches n (vpnOf va) asid = [i] :=
    List.perm_singleton.mp <| (List.perm_ext_iff_of_nodup (tlbMatches_nodup _ _ _ _) (List.nodup_singleton i)).mpr
      fun j => ⟨fun hj => List.mem_singleton.mpr (h j hj), fun hj => List.mem_singleton.mp hj ▸ hi⟩
  unfold State.translateIn
  rw [hts, hone]
  simp

theorem translateIn_of_two_matches {s : State} {asid : BitVec 6} {n : Nat} {va : Word} {i j : BitVec 6}
    (hts : s.tlbShutDown = false) (hne : i ≠ j) (hi : i ∈ s.tlbMatches n (vpnOf va) asid)
    (hj : j ∈ s.tlbMatches n (vpnOf va) asid) (st : Bool) : s.translateIn asid n va st = .multiple := by
  unfold State.translateIn
  rw [hts]
  generalize s.tlbMatches n (vpnOf va) asid = l at hi hj ⊢
  match l with
  | [] => simp at hi
  | [k] =>
    rw [List.mem_singleton] at hi hj
    exact absurd (hi.trans hj.symm) hne
  | _ :: _ :: _ => rfl

/-- Settles O34: the entries that match are the members of the list of matches, which repeats none. -/
theorem tlbTranslation : Obligations.TlbTranslation := by
  intro s va st hmmu hlate htlb hts hva hit
  have hp : s.userMode = false ∨ va.msb = false := hva.elim .inr fun h => .inl h.2
  have hfix : fixedMap s.cfg va = none := by
    rw [fixedMap_of_mapped _ (hva.imp_right And.left), hmmu]; rfl
  have hmem : ∀ i : Fin 64, BitVec.ofFin i ∈ s.tlbMatches 1 (vpnOf va) (s.cp0.entryHi.extractLsb' 6 6) ↔ hit i :=
    fun i => by rw [mem_tlbMatches_iff, tlbView_of_settled htlb, hits_iff]; rfl
  rw [translate_of_mapped hp hfix st, State.translateMapped, asidView_of_no_recent hlate]
  refine ⟨fun h => translateIn_of_no_match hts (fun i hi => h i.toFin ((hmem i.toFin).mp hi)) st, fun i hi h => ?_,
    fun i j hne hi hj => translateIn_of_two_matches hts (fun h => hne (congrArg BitVec.toFin h)) ((hmem i).mpr hi)
      ((hmem j).mpr hj) st⟩
  have hone := translateIn_of_one_match hts ((hmem i).mpr hi)
    (fun j hj => congrArg BitVec.ofFin (h j.toFin ((hmem j.toFin).mp hj))) st
  rw [tlbView_of_settled htlb] at hone
  exact hone

/-! ## The fetch (20_memory.md R111, R119) -/

theorem translateFetch_of_address_error {s : State} {va : Word}
    (h : va.extractLsb' 0 2 ≠ 0 ∨ (s.userMode = true ∧ va.msb = true)) :
    s.translateFetch va = (.exc (.adel va), s.utlb) := by
  unfold State.translateFetch
  rcases h with h | ⟨hu, hva⟩
  · rw [if_pos (by simpa using h)]
  · rw [hu, hva]
    exact ite_self _

/-- With no TLB write in flight the windows of R600 for fetches and data accesses agree. -/
theorem translateMapped_of_settled {s : State} (h : s.pipe.tlbLate = []) (n m : Nat) (va : Word) (st : Bool) :
    s.translateMapped n va st = s.translateMapped m va st := by
  simp only [State.translateMapped, State.translateIn, State.tlbMatches, tlbView_of_settled h]

theorem translateFetch_of_fixed {s : State} {va pa : Word} {u : Bool} (ha : va.extractLsb' 0 2 = 0)
    (hp : s.userMode = false ∨ va.msb = false) (h : fixedMap s.cfg va = some (pa, u)) :
    s.translateFetch va = (.ok pa u, s.utlb) := by
  unfold State.translateFetch
  rw [if_neg (by simp [ha]), if_neg (by rcases hp with hp | hp <;> simp [hp]), h]

theorem translateFetch_of_page_not_held {s : State} {va : Word} (ha : va.extractLsb' 0 2 = 0)
    (hp : s.userMode = false ∨ va.msb = false) (h : fixedMap s.cfg va = none)
    (hheld : ∀ p ∈ s.utlb, p.vpn ≠ vpnOf va) : (s.translateFetch va).1 = s.translateMapped 2 va false := by
  have hmiss : s.utlb.find? (fun p => p.vpn == vpnOf va) = none :=
    List.find?_eq_none.mpr fun p hp => by simpa using hheld p hp
  unfold State.translateFetch
  rw [if_neg (by simp [ha]), if_neg (by rcases hp with hp | hp <;> simp [hp]), h, hmiss]
  cases hts : s.tlbShutDown
  · cases s.translateMapped 2 va false <;> rfl
  · simp [State.translateMapped, State.translateIn, hts]

/-- A fetch whose page the micro-TLB does not hold is translated as a load is. -/
theorem translateFetch_eq_translate {s : State} {va : Word} (ha : va.extractLsb' 0 2 = 0)
    (htlb : s.pipe.tlbLate = []) (hheld : ∀ p ∈ s.utlb, p.vpn ≠ vpnOf va) :
    (s.translateFetch va).1 = s.translate va false := by
  by_cases hup : s.userMode = true ∧ va.msb = true
  · rw [translateFetch_of_address_error (.inr hup), translate_of_user_upper hup.1 hup.2]
    rfl
  have hp : s.userMode = false ∨ va.msb = false :=
    (not_and_or.mp hup).imp Bool.eq_false_iff.mpr Bool.eq_false_iff.mpr
  cases hfix : fixedMap s.cfg va with
  | some p => rw [translateFetch_of_fixed ha hp hfix, translate_of_fixed hp hfix]
  | none =>
    rw [translateFetch_of_page_not_held ha hp hfix hheld, translate_of_mapped hp hfix, translateMapped_of_settled htlb]

theorem translateFetch_of_page_held {s : State} {va : Word} {p : HeldPage} (ha : va.extractLsb' 0 2 = 0)
    (hmmu : s.cfg.hasMmu = true) (hts : s.tlbShutDown = false) (hva : va.msb = false)
    (hp : s.utlb.find? (fun q => q.vpn == vpnOf va) = some p) :
    s.translateFetch va = (.ok (physical p.pfn va) p.noncacheable, holdPage s.cfg s.utlb p) := by
  have hfix : fixedMap s.cfg va = none := by
    rw [fixedMap_of_mapped _ (.inl hva), hmmu]; rfl
  unfold State.translateFetch
  rw [if_neg (by simp [ha]), if_neg (by simp [hva]), hfix, hts, hp]
  rfl

/-- Settles O35. -/
theorem fetchTranslation : Obligations.FetchTranslation := fun _ _ =>
  ⟨fun h => congrArg Prod.fst (translateFetch_of_address_error h), translateFetch_eq_translate,
    fun ha hmmu hts hva _ hp => congrArg Prod.fst (translateFetch_of_page_held ha hmmu hts hva hp)⟩

/-! ## Bytes of a word (20_memory.md R102, R103) -/

/-- The regions start at multiples of the page size. -/
theorem fixedMap_offset {c : Config} {va pa : Word} {u : Bool} (h : fixedMap c va = some (pa, u)) :
    pa.toNat % 4096 = va.toNat % 4096 := by
  have hmask : (va &&& 0x1FFFFFFF).toNat % 4096 = va.toNat % 4096 := by
    rw [and_segment_mask_toNat]
    omega
  unfold fixedMap at h
  split_ifs at h <;> injection h with h <;> injection h with hpa _ <;> subst hpa
  · exact hmask
  · exact hmask
  · rfl
  · rw [BitVec.toNat_add]
    simp only [BitVec.reduceToNat]
    omega

/-- An address that the TLB translates goes to the page of an entry. -/
theorem translateIn_ok {s : State} {asid : BitVec 6} {n : Nat} {va pa : Word} {st u : Bool}
    (h : s.translateIn asid n va st = .ok pa u) : ∃ pfn, pa = physical pfn va := by
  unfold State.translateIn at h
  split at h
  · cases h
  split at h
  · cases h
  · simp only [] at h
    split_ifs at h
    injection h with hpa _
    exact ⟨_, hpa.symm⟩
  · cases h

theorem physical_offset (pfn : BitVec 20) (va : Word) : (physical pfn va).extractLsb' 0 12 = va.extractLsb' 0 12 :=
  BitVec.extractLsb'_append_eq_right

/-- A translation keeps the offset in the page (R112). -/
theorem translate_offset {s : State} {va pa : Word} {st u : Bool} (h : s.translate va st = .ok pa u) :
    pa.extractLsb' 0 12 = va.extractLsb' 0 12 := by
  unfold State.translate at h
  split at h
  · cases h
  split at h
  · rename_i hf
    injection h with hpa hu
    rw [hpa] at hf
    apply BitVec.eq_of_toNat_eq
    simpa using fixedMap_offset hf
  · obtain ⟨pfn, rfl⟩ := translateIn_ok h
    exact physical_offset pfn va

/-- The bytes of a word, from the least significant end. -/
theorem append_bytes_lane (b3 b2 b1 b0 : Byte) :
    let w : Word := b3 ++ b2 ++ b1 ++ b0
    w.extractLsb' 0 8 = b0 ∧ w.extractLsb' 8 8 = b1 ∧ w.extractLsb' 16 8 = b2 ∧ w.extractLsb' 24 8 = b3 :=
  have lower {n m : Nat} (x : BitVec n) (y : Byte) (h : 8 ≤ m) :
      (x ++ y).extractLsb' m 8 = x.extractLsb' (m - 8) 8 := BitVec.extractLsb'_append_eq_of_le h
  ⟨BitVec.extractLsb'_append_eq_right, (lower _ _ (by decide)).trans BitVec.extractLsb'_append_eq_right,
    (lower _ _ (by decide)).trans ((lower _ _ (by decide)).trans BitVec.extractLsb'_append_eq_right),
    (lower _ _ (by decide)).trans ((lower _ _ (by decide)).trans BitVec.extractLsb'_append_eq_left)⟩

/-- Lane `k` of memory's word is the byte at the lane's address. -/
theorem memWord_lane (s : State) (a : Word) {k : Nat} (hk : k < 4) :
    (s.memWord a).extractLsb' (8 * k) 8 = s.byteAt (laneAddr s.cfg.bigEndian (wordAddr a) k) := by
  unfold State.memWord laneAddr
  generalize wordAddr a = w
  cases s.cfg.bigEndian
  · obtain ⟨h0, h1, h2, h3⟩ := append_bytes_lane (s.byteAt (w + 3)) (s.byteAt (w + 2)) (s.byteAt (w + 1)) (s.byteAt w)
    interval_cases k
    · exact h0.trans (congrArg s.byteAt (BitVec.add_zero w).symm)
    · exact h1
    · exact h2
    · exact h3
  · obtain ⟨h0, h1, h2, h3⟩ := append_bytes_lane (s.byteAt w) (s.byteAt (w + 1)) (s.byteAt (w + 2)) (s.byteAt (w + 3))
    interval_cases k
    · exact h0
    · exact h1
    · exact h2
    · exact h3.trans (congrArg s.byteAt (BitVec.add_zero w).symm)

theorem laneAddr_toNat (be : Bool) (a : Word) {k : Nat} (hk : k < 4) :
    (laneAddr be (wordAddr a) k).toNat = a.toNat / 4 * 4 + if be then 3 - k else k := by
  unfold laneAddr
  have := a.isLt
  cases be <;> simp [BitVec.toNat_add, wordAddr_toNat] <;> omega

/-- The low two bits of an address, counted from the other end in the big-endian order (R103, R261). -/
theorem byteLane_eq (s : State) (va : Word) :
    s.byteLane va = if s.bigEndianCpu then 3 - va.toNat % 4 else va.toNat % 4 := by
  have hnot : ∀ k : BitVec 2, (k ^^^ 0b11#2).toNat = 3 - k.toNat := by decide
  unfold State.byteLane
  cases s.bigEndianCpu
  · exact (congrArg BitVec.toNat BitVec.xor_zero).trans (BitVec.toNat_setWidth ..)
  · exact (hnot _).trans (congrArg (3 - ·) (BitVec.toNat_setWidth ..))

theorem byteLane_lt (s : State) (va : Word) : s.byteLane va < 4 := BitVec.isLt _

theorem xor_three_toNat (a : Word) : (a ^^^ 3).toNat = a.toNat / 4 * 4 + (3 - a.toNat % 4) := by
  have hmod : (a.toNat ^^^ 3) % 2 ^ 2 = 3 - a.toNat % 4 := by
    rw [Nat.xor_mod_two_pow]
    have : a.toNat % 2 ^ 2 < 4 := Nat.mod_lt _ (by decide)
    generalize a.toNat % 2 ^ 2 = k at this
    interval_cases k <;> rfl
  have hdiv : (a.toNat ^^^ 3) / 2 ^ 2 = a.toNat / 4 := by
    rw [Nat.xor_div_two_pow]
    exact Nat.xor_zero _
  show a.toNat ^^^ 3 = _
  omega

/-- The lane of a byte access is the byte at the address, or at the address with its low bits inverted. -/
theorem laneAddr_byteLane (s : State) (a : Word) :
    laneAddr s.cfg.bigEndian (wordAddr a) (s.byteLane a) = if s.bigEndianCpu = s.cfg.bigEndian then a else a ^^^ 3 := by
  apply BitVec.eq_of_toNat_eq
  rw [laneAddr_toNat _ _ (byteLane_lt s a), byteLane_eq, apply_ite BitVec.toNat, xor_three_toNat]
  cases s.bigEndianCpu <;> cases s.cfg.bigEndian <;> simp <;> omega

/-- Settles O22. -/
theorem byteAccessReachesItsByte : Obligations.ByteAccessReachesItsByte := by
  intro s va st pa u h
  have hoff := translate_offset h
  have hlow : pa.toNat % 4 = va.toNat % 4 := by
    have := congrArg BitVec.toNat hoff
    simp only [BitVec.extractLsb'_toNat] at this
    omega
  have hlane : s.byteLane va = s.byteLane pa := by
    rw [byteLane_eq, byteLane_eq, hlow]
  exact ⟨hoff, by rw [hlane, memWord_lane s pa (byteLane_lt s pa), laneAddr_byteLane]⟩

/-! ## Lanes of a store (20_memory.md R121, R128) -/

/-- The mask of the enabled lanes has bit `i` where the lane that holds it is enabled. -/
theorem laneMask_getLsbD (be : BitVec 4) {i : Nat} (hi : i < 32) :
    ((if be.getLsbD 0 then 0x000000FF else 0) ||| (if be.getLsbD 1 then 0x0000FF00 else 0)
      ||| (if be.getLsbD 2 then 0x00FF0000 else 0) ||| (if be.getLsbD 3 then 0xFF000000 else 0) : Word).getLsbD i
      = be.getLsbD (i / 8) := by
  simp only [BitVec.getLsbD_or, apply_ite (BitVec.getLsbD · i)]
  interval_cases i <;> simp

/-- A merge takes the enabled lanes from the new word, the others from the old one. -/
theorem mergeLanes_lane (be : BitVec 4) (old new : Word) {k : Nat} (hk : k < 4) :
    (mergeLanes be old new).extractLsb' (8 * k) 8 =
      if be.getLsbD k then new.extractLsb' (8 * k) 8 else old.extractLsb' (8 * k) 8 := by
  apply BitVec.eq_of_getLsbD_eq
  intro i hi
  have hlane : (8 * k + i) / 8 = k := by omega
  have hlt : 8 * k + i < 32 := by omega
  unfold mergeLanes mergeBits
  rw [BitVec.getLsbD_extractLsb', BitVec.getLsbD_or, BitVec.getLsbD_and, BitVec.getLsbD_and, BitVec.getLsbD_not,
    laneMask_getLsbD be hlt, hlane]
  cases be.getLsbD k <;> simp [hlt]

/-- Two words with the same four bytes are the same. -/
theorem word_ext_lanes {v w : Word} (h : ∀ k < 4, v.extractLsb' (8 * k) 8 = w.extractLsb' (8 * k) 8) : v = w := by
  apply BitVec.eq_of_getLsbD_eq
  intro i hi
  have := congrArg (BitVec.getLsbD · (i % 8)) (h (i / 8) (by omega))
  simpa [Nat.mod_lt, Nat.div_add_mod] using this

/-! ## Lines of the caches (20_memory.md R125-R129) -/

theorem setDLine_dLine_self {s : State} (h : sparseWf DLine.blank s.dcache = true) (a : Word) (l : DLine) :
    (s.setDLine a l).dLine a = l := by
  rw [setDLine_dLine h, if_pos rfl]

theorem setDLine_dLine_of_ne {s : State} (h : sparseWf DLine.blank s.dcache = true) {a b : Word}
    (hne : s.dIndex b ≠ s.dIndex a) (l : DLine) : (s.setDLine a l).dLine b = s.dLine b := by
  rw [setDLine_dLine h, if_neg hne]

theorem setILine_iLine_self {s : State} (h : sparseWf ILine.blank s.icache = true) (a : Word) (l : ILine) {b : Word}
    (hb : s.iIndex b = s.iIndex a) : (s.setILine a l).iLine b = l :=
  (sparseGet_sparseSet h _ _ _).trans (if_pos hb)

theorem setILine_iLine_of_ne {s : State} (h : sparseWf ILine.blank s.icache = true) {a b : Word}
    (hne : s.iIndex b ≠ s.iIndex a) (l : ILine) : (s.setILine a l).iLine b = s.iLine b :=
  (sparseGet_sparseSet h _ _ _).trans (if_neg hne)

theorem dHit_iff (s : State) (a : Word) : s.dHit a = true ↔ (s.dLine a).valid = true ∧ (s.dLine a).tag = s.dTag a := by
  simp [State.dHit]

theorem iHit_iff (s : State) (a : Word) : s.iHit a = true ↔ (s.iLine a).valid = true ∧ (s.iLine a).tag = s.iTag a := by
  simp [State.iHit]

/-! ## Stores through the D-cache (R128, R129, R140) -/

theorem cacheStore_word (s : State) (a data : Word) :
    s.cacheStore a data 0b1111 = s.setDLine a ⟨true, s.dTag a, data⟩ := rfl

theorem cacheStore_of_hit {s : State} {a : Word} {be : BitVec 4} (hbe : be ≠ 0b1111) (hh : s.dHit a = true)
    (data : Word) :
    s.cacheStore a data be = s.setDLine a { s.dLine a with data := mergeLanes be (s.dLine a).data data } := by
  unfold State.cacheStore
  rw [if_neg hbe, if_pos hh]

theorem cacheStore_of_miss {s : State} {a : Word} {be : BitVec 4} (hbe : be ≠ 0b1111) (hm : s.dHit a = false)
    (data : Word) : s.cacheStore a data be = s := by
  unfold State.cacheStore
  rw [if_neg hbe, if_neg (by simp [hm])]

/-- After a store of a whole word the line is valid, of that address, with the word. -/
theorem cacheStore_word_line {s : State} (h : sparseWf DLine.blank s.dcache = true) (a data : Word) :
    (s.cacheStore a data 0b1111).dHit a = true ∧ ((s.cacheStore a data 0b1111).dLine a).data = data := by
  rw [dHit_iff, cacheStore_word, setDLine_dLine_self h]
  exact ⟨⟨rfl, rfl⟩, rfl⟩

/-- A store of a part of a word that hits merges its lanes into the line. -/
theorem cacheStore_hit_line {s : State} (h : sparseWf DLine.blank s.dcache = true) {a : Word} {be : BitVec 4}
    (hbe : be ≠ 0b1111) (hh : s.dHit a = true) (data : Word) :
    (s.cacheStore a data be).dHit a = true ∧ ∀ k, k < 4 →
      ((s.cacheStore a data be).dLine a).data.extractLsb' (8 * k) 8 =
        if be.getLsbD k then data.extractLsb' (8 * k) 8 else (s.dLine a).data.extractLsb' (8 * k) 8 := by
  rw [cacheStore_of_hit hbe hh, dHit_iff, setDLine_dLine_self h]
  exact ⟨(dHit_iff s a).mp hh, fun k hk => mergeLanes_lane be _ _ hk⟩

theorem cacheStore_dLine_of_ne {s : State} (h : sparseWf DLine.blank s.dcache = true) {a b : Word}
    (hne : s.dIndex b ≠ s.dIndex a) (data : Word) (be : BitVec 4) : (s.cacheStore a data be).dLine b = s.dLine b := by
  unfold State.cacheStore
  split_ifs
  · exact setDLine_dLine_of_ne h hne _
  · exact setDLine_dLine_of_ne h hne _
  · rfl

theorem pushStore_eq (s : State) (e : WbEntry) : ∃ m w, s.pushStore e = { s with mem := m, wbuf := w } := by
  unfold State.pushStore State.retire
  split_ifs
  · exact ⟨_, _, rfl⟩
  · split <;> exact ⟨_, _, rfl⟩

/-- A cached store enters the write buffer, then goes to the D-cache. -/
theorem writeData_cached {s : State} (hn : NormalCaches s) (a data : Word) (be : BitVec 4) :
    ∃ m w, s.writeData false a data be = ({ s with mem := m, wbuf := w } : State).cacheStore a data be := by
  obtain ⟨hiso, hswap⟩ := hn
  obtain ⟨m, w, hp⟩ := pushStore_eq s ⟨wordAddr a, data, be⟩
  refine ⟨m, w, ?_⟩
  unfold State.writeData
  rw [hiso, hswap, hp]
  rfl

theorem writeData_uncached {s : State} (hn : NormalCaches s) (a data : Word) (be : BitVec 4) :
    ∃ m w, s.writeData true a data be = { s with mem := m, wbuf := w } := by
  obtain ⟨m, w, hp⟩ := pushStore_eq s ⟨wordAddr a, data, be⟩
  refine ⟨m, w, ?_⟩
  unfold State.writeData
  rw [hn.1, hp]
  rfl

/-- Settles O27. -/
theorem cachedStoreUpdatesCache : Obligations.CachedStoreUpdatesCache := by
  intro s pa data be ⟨_, hwf, _⟩ hn
  obtain ⟨m, w, hc⟩ := writeData_cached hn pa data be
  obtain ⟨m', w', hu⟩ := writeData_uncached hn pa data be
  have hwf' : sparseWf DLine.blank ({ s with mem := m, wbuf := w } : State).dcache = true := hwf
  simp only [hc, hu]
  refine ⟨fun hbe => ?_, fun hbe hh => ?_, fun hbe hm => ?_, fun a ha => ?_, trivial, fun u => ?_⟩
  · subst hbe
    exact cacheStore_word_line hwf' pa data
  · exact cacheStore_hit_line hwf' hbe hh data
  · rw [cacheStore_of_miss (s := { s with mem := m, wbuf := w }) hbe hm]
  · exact cacheStore_dLine_of_ne hwf' ha data be
  · cases u
    · rw [hc, cacheStore_icache]
    · rw [hu]

/-! ## A load after a store (R132, R133) -/

/-- A whole word stored to RAM is what memory will hold. -/
theorem writeData_settledWord {s : State} (hc : Contents s) (hn : NormalCaches s) (u : Bool) (a data : Word)
    (hram : ∀ b, wordAddr b = wordAddr a → regionKind s.cfg b = .ram) :
    (s.writeData u a data 0b1111).settledWord a = data := by
  obtain ⟨-, hmem⟩ := writeData_normal hn u a data 0b1111
  refine word_ext_lanes fun k hk => ?_
  rw [State.settledWord, memWord_lane _ _ hk, drain_cfg, writeData_cfg]
  show sparseGet unlistedByte (s.writeData u a data 0b1111).drain.mem _ = _
  rw [hmem]
  exact commitEntry_get_lane (drain_wf hc.1) a data 0b1111 hk (by interval_cases k <;> rfl)
    (hram _ (wordAddr_laneAddr _ a hk))

theorem store_of_translate {s : State} {va pa : Word} {u : Bool} (h : s.translate va true = .ok pa u) (data : Word)
    (be : BitVec 4) : s.store va data be = .done data (s.writeData u pa data be) := by
  unfold State.store
  rw [h]

/-- Settles O26. -/
theorem loadAfterStore : Obligations.LoadAfterStore := by
  intro s va data pa u hc ht hn hram
  refine ⟨_, store_of_translate ht data 0b1111, ?_⟩
  have hsettled := writeData_settledWord hc hn u pa data hram
  unfold State.deliveredWord
  split
  · rename_i hhit
    obtain rfl : u = false := by
      cases u
      · rfl
      · cases hhit
    exact ((cachedStoreUpdatesCache s pa data 0b1111 hc hn).1 rfl).2
  · exact hsettled

/-! ## The isolated cache (R143-R146) -/

theorem writeData_isolated {s : State} (h : s.isolated = true) (u : Bool) (a data : Word) (be : BitVec 4) :
    s.writeData u a data be = s.isolatedWrite a data be := by
  unfold State.writeData
  rw [if_pos h]

theorem readData_isolated {s : State} (h : s.isolated = true) (u : Bool) (a : Word) :
    s.readData u a = .done (if s.swapped then (s.iLine a).word a else (s.dLine a).data)
      (s.setCm !(if s.swapped then s.iHit a else s.dHit a)) := by
  unfold State.readData State.isolatedRead
  rw [if_pos h]
  cases s.swapped <;> rfl

/-- The line an isolated store leaves in the D-cache. -/
def isolatedDLine (s : State) (a data : Word) (be : BitVec 4) : DLine :=
  if be = 0b1111 then ⟨true, s.dTag a, data⟩ else { s.dLine a with valid := false }

/-- The line an isolated store leaves in the I-cache when the caches are swapped. -/
def isolatedILine (s : State) (a data : Word) (be : BitVec 4) : ILine :=
  if be = 0b1111 then ⟨true, s.iTag a, (s.iLine a).words.set (lineWord a) data (lineWord_lt a)⟩
  else { s.iLine a with valid := false }

theorem isolatedWrite_of_not_swapped {s : State} (h : s.swapped = false) (a data : Word) (be : BitVec 4) :
    s.isolatedWrite a data be = s.setDLine a (isolatedDLine s a data be) := by
  unfold State.isolatedWrite isolatedDLine
  rw [if_neg (by simp [h])]
  split <;> rfl

theorem isolatedWrite_of_swapped {s : State} (h : s.swapped = true) (a data : Word) (be : BitVec 4) :
    s.isolatedWrite a data be = s.setILine a (isolatedILine s a data be) := by
  unfold State.isolatedWrite isolatedILine
  rw [if_pos h]
  split <;> rfl

/-- An isolated store with the caches swapped writes one word of the I-cache line and keeps the other three. -/
theorem isolatedILine_word (s : State) (a data b : Word) :
    (isolatedILine s a data 0b1111).word b = if lineWord b = lineWord a then data else (s.iLine a).word b := by
  show ((s.iLine a).words.set (lineWord a) data (lineWord_lt a))[lineWord b]'(lineWord_lt b) = _
  rw [Vector.getElem_set]
  simp only [eq_comm]
  rfl

/-- SR.CM shows the miss and the rest of SR is as before (10_state.md R37). -/
theorem setCm_sr (s : State) (miss : Bool) :
    (s.setCm miss).cp0.sr.getLsbD 19 = miss ∧ (s.setCm miss).cp0.sr &&& 0xFFF7FFFF = s.cp0.sr &&& 0xFFF7FFFF := by
  refine ⟨?_, setBit_and (by decide) _ _⟩
  show (setBit s.cp0.sr 19 miss).getLsbD 19 = miss
  cases miss <;> simp [setBit]

/-- Settles O28. -/
theorem isolatedAccessStaysInCache : Obligations.IsolatedAccessStaysInCache := by
  intro s u pa data be ⟨_, hd, hi⟩ hiso
  simp only [writeData_isolated hiso]
  refine ⟨fun hs => ?_, fun hs => ?_, _, readData_isolated hiso u pa, setCm_sr s _ |>.1, setCm_sr s _ |>.2, rfl⟩
  · rw [isolatedWrite_of_not_swapped hs, setDLine_dLine_self hd]
    refine ⟨rfl, fun a ha => setDLine_dLine_of_ne hd ha _, fun hbe => if_pos hbe, fun hbe => ?_⟩
    rw [isolatedDLine, if_neg hbe]
  · rw [isolatedWrite_of_swapped hs, iHit_iff, setILine_iLine_self hi pa _ rfl]
    refine ⟨rfl, fun a ha => setILine_iLine_of_ne hi ha _, fun hbe => ?_, fun hbe => ?_⟩
    · subst hbe
      exact ⟨⟨rfl, rfl⟩, (isolatedILine_word s pa data pa).trans (if_pos rfl),
        fun a ha => (isolatedILine_word s pa data a).trans (if_neg ha)⟩
    · rw [isolatedILine, if_neg hbe]

/-! ## The fetch of a word (R104, R126, R134) -/

theorem fetch_of_translate {s : State} {pa : Word} {u : Bool} {held : List HeldPage}
    (h : s.translateFetch s.pc = (.ok pa u, held)) : s.fetch = { s with utlb := held }.fetchWord u pa := by
  unfold State.fetch
  rw [h]

/-- An uncached fetch waits for the write buffer (R134). -/
theorem fetchWord_uncached {s : State} {a : Word} (hm : LineIsMemory s a) :
    s.fetchWord true a = .done (s.settledWord a) s.drain := by
  obtain ⟨hkind, herr⟩ := hm a rfl
  unfold State.fetchWord
  rw [if_pos rfl, busRead_memory (s := s.drain) true hkind (herr true)]
  rfl

theorem fetchWord_hit {s : State} {a : Word} (hs : s.swapped = false) (hh : s.iHit a = true) :
    s.fetchWord false a = .done ((s.iLine a).word a) s := by
  unfold State.fetchWord
  rw [if_neg (by decide), if_neg (by simp [hs]), if_pos hh]

/-- A miss fills the line with memory's four words, without waiting for the write buffer (R126, R134). -/
theorem fetchWord_miss {s : State} {a : Word} (hm : LineIsMemory s a) (hs : s.swapped = false)
    (hh : s.iHit a = false) : ∃ w : Vector Word 4,
      s.fetchWord false a = .done (s.memWord a) (s.setILine a ⟨true, s.iTag a, w⟩) ∧
      ∀ b, blockAddr b = blockAddr a → w[lineWord b]'(lineWord_lt b) = s.memWord b := by
  obtain ⟨w, hburst, hw⟩ := busBurst_memory true hm
  refine ⟨w, ?_, hw⟩
  unfold State.fetchWord
  rw [if_neg (by decide), if_neg (by simp [hs]), if_neg (by simp [hh]), hburst]
  exact congrArg (Access.done · _) (hw a rfl)

/-- After a refill the line hits with memory's four words, every other line is as before. -/
theorem iLine_after_refill {s : State} (hwf : sparseWf ILine.blank s.icache = true) {a : Word} {w : Vector Word 4}
    (hw : ∀ b, blockAddr b = blockAddr a → w[lineWord b]'(lineWord_lt b) = s.memWord b) :
    let t := s.setILine a ⟨true, s.iTag a, w⟩
    t.iHit a = true ∧ (∀ b, blockAddr b = blockAddr a → (t.iLine a).word b = s.memWord b) ∧
      ∀ b, s.iIndex b ≠ s.iIndex a → t.iLine b = s.iLine b := by
  intro t
  have hline : t.iLine a = ⟨true, s.iTag a, w⟩ := setILine_iLine_self hwf a _ rfl
  rw [iHit_iff, hline]
  exact ⟨⟨rfl, rfl⟩, hw, fun b hb => setILine_iLine_of_ne hwf hb _⟩

/-- Settles O9: the micro-TLB is set first, then the word is fetched. -/
theorem fetchDeliversInstructionWord : Obligations.FetchDeliversInstructionWord := by
  intro s pa u held hx hm hs
  rw [fetch_of_translate hx]
  cases u
  case true =>
    exact ⟨_, fetchWord_uncached (s := { s with utlb := held }) hm, fun _ => rfl, rfl, rfl, fun _ => rfl,
      fun h => by cases h⟩
  case false =>
    cases hh : s.iHit pa
    case true =>
      exact ⟨_, fetchWord_hit (s := { s with utlb := held }) hs hh, fun _ => rfl, rfl, ⟨rfl, rfl⟩, fun _ => rfl,
        fun _ h => by cases h⟩
    case false =>
      obtain ⟨w, hf, hw⟩ := fetchWord_miss (s := { s with utlb := held }) hm hs hh
      exact ⟨_, hf, fun _ => rfl, rfl, ⟨rfl, rfl⟩, by simp,
        fun _ _ hwf => iLine_after_refill (s := { s with utlb := held }) hwf hw⟩

/-! ## Misaligned accesses (R110, R512, R513) -/

theorem memoryOp_of_mayAccess {s : State} (h : MayAccess s) (k : State → Result) : memoryOp s k = k (atMemory s) := by
  unfold memoryOp
  rw [if_neg h]
  rfl

theorem misaligned_iff (va : Word) (size : Nat) : misaligned va size = true ↔ va.toNat % size ≠ 0 := by
  simp [misaligned]

/-- A misaligned read asks neither the translation nor the bus: its address error is taken at the instruction. -/
theorem readMem_of_misaligned {s : State} {va : Word} {size : Nat} (hp : MayAccess s) (h : va.toNat % size ≠ 0)
    (k : Word → State → Result) : Raises s (readMem va size s k) (.adel va) := by
  unfold readMem
  rw [memoryOp_of_mayAccess hp, if_pos ((misaligned_iff va size).mpr h)]
  rfl

theorem writeMem_of_misaligned {s : State} {va : Word} {size : Nat} (hp : MayAccess s) (h : va.toNat % size ≠ 0)
    (data : Word) (be : BitVec 4) : Raises s (writeMem va size data be s) (.ades va) := by
  unfold writeMem
  rw [memoryOp_of_mayAccess hp, if_pos ((misaligned_iff va size).mpr h)]
  rfl

/-- An instruction of a usable coprocessor raises what it raises behind the check. -/
theorem raises_withCop {z : BitVec 2} {s : State} (h : s.usable z = true) {t : State} {k : Result} {e : Exc}
    (hk : Raises t k e) : Raises t (withCop z s k) e := by
  rw [withCop_of_usable h]
  exact hk

/-- Settles O29. -/
theorem misalignedAccessRaises : Obligations.MisalignedAccessRaises := by
  intro s rt base offset va hp
  refine ⟨fun h => ?_, fun h => ?_⟩
  · have hodd : va.toNat % 2 ≠ 0 := by omega
    exact ⟨readMem_of_misaligned hp hodd _, readMem_of_misaligned hp hodd _, writeMem_of_misaligned hp hodd _ _⟩
  · have hread : ∀ k, Raises s (readMem va 4 s k) (.adel va) := readMem_of_misaligned hp h
    have hwrite : ∀ data be, Raises s (writeMem va 4 data be s) (.ades va) := writeMem_of_misaligned hp h
    exact ⟨hread _, hwrite _ _, fun hu => ⟨raises_withCop hu (hread _), raises_withCop hu (hwrite _ _)⟩,
      fun hu => ⟨raises_withCop hu (hread _), raises_withCop hu (hwrite _ _)⟩, fun hu => raises_withCop hu (hread _)⟩

/-! ## Bus errors (R122, R139, R515) -/

theorem busRead_of_error {s : State} {fetch : Bool} {a : Word} (h : busError s.cfg fetch a = true) :
    s.busRead fetch a = none := by
  unfold State.busRead
  rw [if_pos h]

/-- An error on any word of a burst is the access's error (D23, log entry 51). -/
theorem busBurst_of_error {s : State} {fetch : Bool} {a : Word} {k : Nat} (hk : k < 4)
    (h : busError s.cfg fetch (blockAddr a + BitVec.ofNat 32 (4 * k)) = true) : s.busBurst fetch a = none := by
  have hnone := busRead_of_error h
  unfold State.busBurst
  split
  case h_2 => rfl
  case h_1 w0 w1 w2 w3 h0 h1 h2 h3 =>
    exfalso
    interval_cases k
    · rw [BitVec.add_zero, h0] at hnone; cases hnone
    · exact absurd (h1.symm.trans hnone) nofun
    · exact absurd (h2.symm.trans hnone) nofun
    · exact absurd (h3.symm.trans hnone) nofun

/-- The board ends what a data read of `pa` asks of the bus with an error: the word, or a word of the block refill. -/
def ReadFails (s : State) (u : Bool) (pa : Word) : Prop :=
  if u = false ∧ s.blockRefill = true then
    ∃ k, k < 4 ∧ busError s.cfg false (blockAddr pa + BitVec.ofNat 32 (4 * k)) = true
  else busError s.cfg false pa = true

theorem refillD_of_error {s : State} {a : Word} (h : ReadFails s false a) :
    s.drain.refillD false s.blockRefill a = none := by
  unfold ReadFails at h
  unfold State.refillD
  cases hb : s.blockRefill
  · rw [if_neg (by simp [hb])] at h
    rw [if_neg (by decide), busRead_of_error (s := s.drain) h]
  · rw [if_pos ⟨rfl, hb⟩] at h
    obtain ⟨k, hk, herr⟩ := h
    rw [if_pos rfl, busBurst_of_error (s := s.drain) hk herr]

/-- A data read that the D-cache does not serve and the bus fails is a bus error, after the buffered stores. -/
theorem readData_of_error {s : State} {u : Bool} {a : Word} (hn : NormalCaches s)
    (hc : s.servedByCache u a = false) (h : ReadFails s u a) : s.readData u a = .exc .dbe s.drain := by
  unfold State.readData
  rw [if_neg (by simp [hn.1])]
  cases u
  · rw [if_neg (by decide), if_neg (by simp [hn.2])]
    unfold State.cachedRead
    rw [if_neg (by simpa [State.servedByCache] using hc), refillD_of_error h]
  · have herr : busError s.drain.cfg false a = true := by
      unfold ReadFails at h
      rwa [if_neg (by simp)] at h
    rw [if_pos rfl, busRead_of_error herr]

/-- An aligned read that fails on the bus takes the data bus error from the drained state. -/
theorem readMem_of_error {s : State} {va pa : Word} {u : Bool} {size : Nat} (hp : MayAccess s) (hn : NormalCaches s)
    (ht : s.translate va false = .ok pa u) (hc : s.servedByCache u pa = false) (h : ReadFails s u pa)
    (ha : va.toNat % size = 0) (k : Word → State → Result) : Raises s.drain (readMem va size s k) .dbe := by
  have hload : (atMemory s).load va = .exc .dbe (atMemory s).drain := by
    unfold State.load
    rw [show (atMemory s).translate va false = .ok pa u from ht]
    exact readData_of_error (s := atMemory s) hn hc h
  unfold readMem
  rw [memoryOp_of_mayAccess hp, if_neg (mt (misaligned_iff va size).mp (by simpa using ha)), hload]
  rfl

theorem causeAfter_excCode (cause : Word) (slot : Bool) (ce : BitVec 2) (code : BitVec 5) :
    (causeAfter cause slot ce code).extractLsb' 2 5 = code := by
  unfold causeAfter
  apply BitVec.eq_of_getLsbD_eq
  intro i hi
  interval_cases i <;> cases slot <;> simp

/-- Settles O30. -/
theorem busErrorOnLoad : Obligations.BusErrorOnLoad := by
  intro s rt base offset pa u va hp hn ht hc herr fails
  have hread : ∀ size k, va.toNat % size = 0 → Raises s.drain (readMem va size s k) .dbe :=
    fun size k ha => readMem_of_error hp hn ht hc herr ha k
  refine ⟨fun i hi => ?_, fun ha => ⟨hread 2 _ ha, hread 2 _ ha⟩, fun ha => ⟨hread 4 _ ha,
    fun hu => raises_withCop hu (hread 4 _ ha), fun hu => raises_withCop hu (hread 4 _ ha),
    fun hu => raises_withCop hu (hread 4 _ ha)⟩, rfl, rfl, rfl, fun _ => rfl, causeAfter_excCode _ _ _ _⟩
  simp only [List.mem_cons, List.not_mem_nil, or_false] at hi
  rcases hi with rfl | rfl | rfl | rfl <;> exact hread 1 _ (Nat.mod_one _)

end Sys2Proof.Proofs

/-! Encoding: what the decoder looks at, the words of an opcode row, the words of no row. -/

namespace Sys2Proof.Proofs

open Sys2Proof.Machine Sys2Proof.Laws

/-! ## A word by its fields (30_encoding.md R161) -/

theorem rType_fields (w : Word) : rType (opOf w) (rsOf w) (rtOf w) (rdOf w) (shamtOf w) (functOf w) = w := by
  apply BitVec.eq_of_getLsbD_eq
  intro i hi
  simp only [rType, opOf, rsOf, rtOf, rdOf, shamtOf, functOf, BitVec.getLsbD_append, BitVec.getLsbD_extractLsb']
  interval_cases i <;> simp

theorem iType_fields (w : Word) : iType (opOf w) (rsOf w) (rtOf w) (immOf w) = w := by
  apply BitVec.eq_of_getLsbD_eq
  intro i hi
  simp only [iType, opOf, rsOf, rtOf, immOf, BitVec.getLsbD_append, BitVec.getLsbD_extractLsb']
  interval_cases i <;> simp

/-! ### The fields under the masks of the opcode table -/

theorem and_op_funct (w : Word) : w &&& 0xFC00003F = rType (opOf w) 0 0 0 0 (functOf w) := by
  conv_lhs => rw [← rType_fields w]
  exact rType_op_funct _ _ _ _ _ _

theorem and_op_rs_funct (w : Word) : w &&& 0xFFE0003F = rType (opOf w) (rsOf w) 0 0 0 (functOf w) := by
  conv_lhs => rw [← rType_fields w]
  exact rType_op_rs_funct _ _ _ _ _ _

theorem and_op_rs (w : Word) : w &&& 0xFFE00000 = rType (opOf w) (rsOf w) 0 0 0 0 := by
  conv_lhs => rw [← rType_fields w]
  exact rType_op_rs _ _ _ _ _ _

theorem and_op (w : Word) : w &&& 0xFC000000 = iType (opOf w) 0 0 0 := by
  conv_lhs => rw [← iType_fields w]
  exact iType_op _ _ _ _

theorem and_op_rt (w : Word) : w &&& 0xFC1F0000 = iType (opOf w) 0 (rtOf w) 0 := by
  conv_lhs => rw [← iType_fields w]
  exact iType_op_rt _ _ _ _

theorem and_op_rs_rt (w : Word) : w &&& 0xFFFF0000 = iType (opOf w) (rsOf w) (rtOf w) 0 := by
  conv_lhs => rw [← iType_fields w]
  exact iType_op_rs_rt _ _ _ _

/-- Bit 25 is the top bit of `rs`. -/
theorem and_op_bit25_funct (w : Word) : w &&& 0xFE00003F = rType (opOf w) (rsOf w &&& 16) 0 0 0 (functOf w) := by
  conv_lhs => rw [← rType_fields w]
  apply BitVec.eq_of_getLsbD_eq
  intro i hi
  simp only [rType, BitVec.getLsbD_and, BitVec.getLsbD_append]
  interval_cases i <;> simp

theorem and_op_bit25 (w : Word) : w &&& 0xFE000000 = rType (opOf w) (rsOf w &&& 16) 0 0 0 0 := by
  conv_lhs => rw [← rType_fields w]
  apply BitVec.eq_of_getLsbD_eq
  intro i hi
  simp only [rType, BitVec.getLsbD_and, BitVec.getLsbD_append]
  interval_cases i <;> simp

theorem and_sixteen_eq_iff (rs : BitVec 5) : rs &&& 16 = 16 ↔ 16 ≤ rs.toNat := by
  revert rs
  decide

/-! ### The fields of a word that has the bits of a row -/

theorem fields_of_and_op_funct {w v : Word} (h : w &&& 0xFC00003F = v) : opOf w = opOf v ∧ functOf w = functOf v := by
  rw [← h, and_op_funct]
  simp

theorem fields_of_and_op_rs_funct {w v : Word} (h : w &&& 0xFFE0003F = v) :
    opOf w = opOf v ∧ rsOf w = rsOf v ∧ functOf w = functOf v := by
  rw [← h, and_op_rs_funct]
  simp

theorem fields_of_and_op_rs {w v : Word} (h : w &&& 0xFFE00000 = v) : opOf w = opOf v ∧ rsOf w = rsOf v := by
  rw [← h, and_op_rs]
  simp

theorem field_of_and_op {w v : Word} (h : w &&& 0xFC000000 = v) : opOf w = opOf v := by
  rw [← h, and_op]
  simp

theorem fields_of_and_op_rt {w v : Word} (h : w &&& 0xFC1F0000 = v) : opOf w = opOf v ∧ rtOf w = rtOf v := by
  rw [← h, and_op_rt]
  simp

theorem fields_of_and_op_rs_rt {w v : Word} (h : w &&& 0xFFFF0000 = v) :
    opOf w = opOf v ∧ rsOf w = rsOf v ∧ rtOf w = rtOf v := by
  rw [← h, and_op_rs_rt]
  simp

theorem fields_of_and_op_bit25_funct {w v : Word} (h : w &&& 0xFE00003F = v) (hv : rsOf v = 16) :
    opOf w = opOf v ∧ 16 ≤ (rsOf w).toNat ∧ functOf w = functOf v := by
  rw [and_op_bit25_funct] at h
  have hrs : rsOf w &&& 16 = 16 := by simpa [← h] using hv
  exact ⟨by simp [← h], (and_sixteen_eq_iff _).mp hrs, by simp [← h]⟩

theorem fields_of_and_op_bit25 {w v : Word} (h : w &&& 0xFE000000 = v) (hv : rsOf v = 16) :
    opOf w = opOf v ∧ 16 ≤ (rsOf w).toNat := by
  rw [and_op_bit25] at h
  have hrs : rsOf w &&& 16 = 16 := by simpa [← h] using hv
  exact ⟨by simp [← h], (and_sixteen_eq_iff _).mp hrs⟩

/-! ## Which part of the decoder a word goes to (R168, R171-R174) -/

theorem decodeWord_special {w : Word} (h : opOf w = 0) : decodeWord w = decodeSpecial w := by
  unfold decodeWord; rw [h]; rfl

theorem decodeWord_regimm {w : Word} (h : opOf w = 1) : decodeWord w = decodeRegimm w := by
  unfold decodeWord; rw [h]; rfl

theorem decodeWord_cop0 {w : Word} (h : opOf w = 16) : decodeWord w = decodeCop0 w := by
  unfold decodeWord; rw [h]; rfl

theorem decodeWord_cop1 {w : Word} (h : opOf w = 17) : decodeWord w = decodeCop1 w := by
  unfold decodeWord; rw [h]; rfl

theorem decodeWord_cop2 {w : Word} (h : opOf w = 18) : decodeWord w = decodeCop2 w := by
  unfold decodeWord; rw [h]; rfl

theorem decodeWord_cop3 {w : Word} (h : opOf w = 19) : decodeWord w = decodeCop3 w := by
  unfold decodeWord; rw [h]; rfl

theorem decodeCop0_of_bit25 {w : Word} (h : 16 ≤ (rsOf w).toNat) : decodeCop0 w = decodeCop0Operation w := by
  unfold decodeCop0
  split
  case h_6 => rw [if_neg (by omega)]
  all_goals omega

theorem decodeCop1_single {w : Word} (h : rsOf w = 16) : decodeCop1 w = decodeFpSingle w := by
  unfold decodeCop1; rw [h]; rfl

theorem decodeCop1_double {w : Word} (h : rsOf w = 17) : decodeCop1 w = decodeFpDouble w := by
  unfold decodeCop1; rw [h]; rfl

theorem decodeCop1_word {w : Word} (h : rsOf w = 20) : decodeCop1 w = decodeFpWord w := by
  unfold decodeCop1; rw [h]; rfl

theorem decodeCop2_of_bit25 {w : Word} (h : 16 ≤ (rsOf w).toNat) : decodeCop2 w = .ok (.cop2 (cofunOf w)) := by
  unfold decodeCop2
  split
  case h_6 => rw [if_neg (by omega)]
  all_goals omega

theorem decodeCop3_of_bit25 {w : Word} (h : 16 ≤ (rsOf w).toNat) : decodeCop3 w = .ok (.cop3 (cofunOf w)) := by
  unfold decodeCop3
  split
  case h_6 => rw [if_neg (by omega)]
  all_goals omega

/-! ## Decoding an encoded instruction -/

/-- Settles O4: the fields the decoder branches on are the ones the encoder fixes, the others are the operands. -/
theorem decodeOfEncode : Obligations.DecodeOfEncode := by
  intro i
  cases i with
  | sll | srl | sra | sllv | srlv | srav | jr | jalr | syscall | break_ | mfhi | mthi | mflo | mtlo | mult | multu | div
  | divu | add | addu | sub | subu | and | or | xor | nor | slt | sltu =>
    simp [encode, decodeWord_special, decodeSpecial]
  | bltz | bgez | bltzal | bgezal => simp [encode, decodeWord_regimm, decodeRegimm]
  | mfc0 | mtc0 | cfc0 | ctc0 | bc0f | bc0t => simp [encode, decodeWord_cop0, decodeCop0]
  | tlbr | tlbwi | tlbwr | tlbp | rfe =>
    simp [encode, decodeWord_cop0, decodeCop0_of_bit25, decodeCop0Operation]
  | mfc1 | cfc1 | mtc1 | ctc1 | bc1f | bc1t => simp [encode, decodeWord_cop1, decodeCop1]
  | mfc2 | cfc2 | mtc2 | ctc2 | bc2f | bc2t => simp [encode, decodeWord_cop2, decodeCop2]
  | mfc3 | cfc3 | mtc3 | ctc3 | bc3f | bc3t => simp [encode, decodeWord_cop3, decodeCop3]
  | cop2 => simp [encode, decodeWord_cop2, decodeCop2_of_bit25, rsOf_copType_ge]
  | cop3 => simp [encode, decodeWord_cop3, decodeCop3_of_bit25, rsOf_copType_ge]
  | addS | subS | mulS | divS | absS | movS | negS | cvtDS | cvtWS | cFS | cUnS | cEqS | cUeqS | cOltS | cUltS | cOleS
  | cUleS | cSfS | cNgleS | cSeqS | cNglS | cLtS | cNgeS | cLeS | cNgtS =>
    simp [encode, decodeWord_cop1, decodeCop1_single, decodeFpSingle]
  | addD | subD | mulD | divD | absD | movD | negD | cvtSD | cvtWD | cFD | cUnD | cEqD | cUeqD | cOltD | cUltD | cOleD
  | cUleD | cSfD | cNgleD | cSeqD | cNglD | cLtD | cNgeD | cLeD | cNgtD =>
    simp [encode, decodeWord_cop1, decodeCop1_double, decodeFpDouble]
  | cvtSW | cvtDW => simp [encode, decodeWord_cop1, decodeCop1_word, decodeFpWord]
  | j | jal | beq | bne | blez | bgtz | addi | addiu | slti | sltiu | andi | ori | xori | lui | lb | lh | lwl | lw | lbu
  | lhu | lwr | sb | sh | swl | sw | swr | lwc0 | lwc1 | lwc2 | lwc3 | swc0 | swc1 | swc2 | swc3 =>
    simp [encode, decodeWord]

/-! ## The words that decode are those of the opcode table's rows -/

/-- The word has the bits of the instruction's row. -/
abbrev InRow (w : Word) (i : Instr) : Prop := w &&& (opcodeRow i).mask = (opcodeRow i).value

theorem eq_ofNat_of_toNat_eq {n k : Nat} {x : BitVec n} (h : x.toNat = k) : x = BitVec.ofNat n k :=
  (BitVec.toNat_eq_nat.mp h).2

/-! ### From the word's row to what it decodes to -/

/-- A word with the bits of a row decodes to an instruction of that row. -/
theorem map_opcodeRow_decodeWord {w : Word} {j : Instr} (h : InRow w j) :
    (decodeWord w).map opcodeRow = .ok (opcodeRow j) := by
  cases j
  all_goals dsimp only [InRow, opcodeRow] at h
  case sll | srl | sra | sllv | srlv | srav | jr | jalr | syscall | break_ | mfhi | mthi | mflo | mtlo | mult | multu | div
  | divu | add | addu | sub | subu | and | or | xor | nor | slt | sltu =>
    obtain ⟨hop, hfunct⟩ := fields_of_and_op_funct h
    rw [decodeWord_special hop, decodeSpecial, hfunct]; rfl
  case bltz | bgez | bltzal | bgezal =>
    obtain ⟨hop, hrt⟩ := fields_of_and_op_rt h
    rw [decodeWord_regimm hop, decodeRegimm, hrt]; rfl
  case mfc0 | mtc0 | cfc0 | ctc0 =>
    obtain ⟨hop, hrs⟩ := fields_of_and_op_rs h
    rw [decodeWord_cop0 hop, decodeCop0, hrs]; rfl
  case bc0f | bc0t =>
    obtain ⟨hop, hrs, hrt⟩ := fields_of_and_op_rs_rt h
    rw [decodeWord_cop0 hop, decodeCop0, hrs, hrt]; rfl
  case tlbr | tlbwi | tlbwr | tlbp | rfe =>
    obtain ⟨hop, hrs, hfunct⟩ := fields_of_and_op_bit25_funct h rfl
    rw [decodeWord_cop0 hop, decodeCop0_of_bit25 hrs, decodeCop0Operation, hfunct]; rfl
  case mfc1 | cfc1 | mtc1 | ctc1 =>
    obtain ⟨hop, hrs⟩ := fields_of_and_op_rs h
    rw [decodeWord_cop1 hop, decodeCop1, hrs]; rfl
  case bc1f | bc1t =>
    obtain ⟨hop, hrs, hrt⟩ := fields_of_and_op_rs_rt h
    rw [decodeWord_cop1 hop, decodeCop1, hrs, hrt]; rfl
  case mfc2 | cfc2 | mtc2 | ctc2 =>
    obtain ⟨hop, hrs⟩ := fields_of_and_op_rs h
    rw [decodeWord_cop2 hop, decodeCop2, hrs]; rfl
  case bc2f | bc2t =>
    obtain ⟨hop, hrs, hrt⟩ := fields_of_and_op_rs_rt h
    rw [decodeWord_cop2 hop, decodeCop2, hrs, hrt]; rfl
  case cop2 =>
    obtain ⟨hop, hrs⟩ := fields_of_and_op_bit25 h rfl
    rw [decodeWord_cop2 hop, decodeCop2_of_bit25 hrs]; rfl
  case mfc3 | cfc3 | mtc3 | ctc3 =>
    obtain ⟨hop, hrs⟩ := fields_of_and_op_rs h
    rw [decodeWord_cop3 hop, decodeCop3, hrs]; rfl
  case bc3f | bc3t =>
    obtain ⟨hop, hrs, hrt⟩ := fields_of_and_op_rs_rt h
    rw [decodeWord_cop3 hop, decodeCop3, hrs, hrt]; rfl
  case cop3 =>
    obtain ⟨hop, hrs⟩ := fields_of_and_op_bit25 h rfl
    rw [decodeWord_cop3 hop, decodeCop3_of_bit25 hrs]; rfl
  case addS | subS | mulS | divS | absS | movS | negS | cvtDS | cvtWS | cFS | cUnS | cEqS | cUeqS | cOltS | cUltS | cOleS
  | cUleS | cSfS | cNgleS | cSeqS | cNglS | cLtS | cNgeS | cLeS | cNgtS =>
    obtain ⟨hop, hfmt, hfunct⟩ := fields_of_and_op_rs_funct h
    rw [decodeWord_cop1 hop, decodeCop1_single hfmt, decodeFpSingle, hfunct]; rfl
  case addD | subD | mulD | divD | absD | movD | negD | cvtSD | cvtWD | cFD | cUnD | cEqD | cUeqD | cOltD | cUltD | cOleD
  | cUleD | cSfD | cNgleD | cSeqD | cNglD | cLtD | cNgeD | cLeD | cNgtD =>
    obtain ⟨hop, hfmt, hfunct⟩ := fields_of_and_op_rs_funct h
    rw [decodeWord_cop1 hop, decodeCop1_double hfmt, decodeFpDouble, hfunct]; rfl
  case cvtSW | cvtDW =>
    obtain ⟨hop, hfmt, hfunct⟩ := fields_of_and_op_rs_funct h
    rw [decodeWord_cop1 hop, decodeCop1_word hfmt, decodeFpWord, hfunct]; rfl
  case j | jal | beq | bne | blez | bgtz | addi | addiu | slti | sltiu | andi | ori | xori | lui | lb | lh | lwl | lw | lbu
  | lhu | lwr | sb | sh | swl | sw | swr | lwc0 | lwc1 | lwc2 | lwc3 | swc0 | swc1 | swc2 | swc3 =>
    rw [decodeWord, field_of_and_op h]; rfl

/-! ### From what a word decodes to to its row -/

theorem inRow_of_rs {w : Word} {i : Instr} {op : BitVec 6} {n : Nat} (hop : opOf w = op) (hrs : (rsOf w).toNat = n)
    (hm : (opcodeRow i).mask = 0xFFE00000) (hv : (opcodeRow i).value = rType op (BitVec.ofNat 5 n) 0 0 0 0) :
    InRow w i := by
  rw [InRow, hm, hv, and_op_rs, hop, eq_ofNat_of_toNat_eq hrs]

theorem inRow_of_rs_rt {w : Word} {i : Instr} {op : BitVec 6} {n k : Nat} (hop : opOf w = op)
    (hrs : (rsOf w).toNat = n) (hrt : (rtOf w).toNat = k) (hm : (opcodeRow i).mask = 0xFFFF0000)
    (hv : (opcodeRow i).value = iType op (BitVec.ofNat 5 n) (BitVec.ofNat 5 k) 0) : InRow w i := by
  rw [InRow, hm, hv, and_op_rs_rt, hop, eq_ofNat_of_toNat_eq hrs, eq_ofNat_of_toNat_eq hrt]

theorem inRow_of_rs_funct {w : Word} {i : Instr} {op : BitVec 6} {n k : Nat} (hop : opOf w = op)
    (hrs : (rsOf w).toNat = n) (hfunct : (functOf w).toNat = k) (hm : (opcodeRow i).mask = 0xFFE0003F)
    (hv : (opcodeRow i).value = rType op (BitVec.ofNat 5 n) 0 0 0 (BitVec.ofNat 6 k)) : InRow w i := by
  rw [InRow, hm, hv, and_op_rs_funct, hop, eq_ofNat_of_toNat_eq hrs, eq_ofNat_of_toNat_eq hfunct]

theorem inRow_of_bit25 {w : Word} {i : Instr} {op : BitVec 6} (hop : opOf w = op) (hrs : ¬ (rsOf w).toNat < 16)
    (hm : (opcodeRow i).mask = 0xFE000000) (hv : (opcodeRow i).value = rType op 16 0 0 0 0) : InRow w i := by
  rw [InRow, hm, hv, and_op_bit25, hop, (and_sixteen_eq_iff _).mpr (not_lt.mp hrs)]

theorem decodeSpecial_inRow {w : Word} {i : Instr} (hop : opOf w = 0) (h : decodeSpecial w = .ok i) : InRow w i := by
  unfold decodeSpecial at h
  split at h
  case h_29 => cases h
  all_goals
    next hfunct =>
      cases h
      exact (and_op_funct w).trans (by rw [hop, eq_ofNat_of_toNat_eq hfunct]; rfl)

theorem decodeRegimm_inRow {w : Word} {i : Instr} (hop : opOf w = 1) (h : decodeRegimm w = .ok i) : InRow w i := by
  unfold decodeRegimm at h
  split at h
  case h_5 => cases h
  all_goals
    next hrt =>
      cases h
      exact (and_op_rt w).trans (by rw [hop, eq_ofNat_of_toNat_eq hrt]; rfl)

theorem decodeCop0Operation_inRow {w : Word} {i : Instr} (hop : opOf w = 16) (hrs : 16 ≤ (rsOf w).toNat)
    (h : decodeCop0Operation w = .ok i) : InRow w i := by
  unfold decodeCop0Operation at h
  split at h
  case h_6 => cases h
  all_goals
    next hfunct =>
      cases h
      exact (and_op_bit25_funct w).trans (by
        rw [hop, (and_sixteen_eq_iff _).mpr hrs, eq_ofNat_of_toNat_eq hfunct]; rfl)

theorem decodeFpSingle_inRow {w : Word} {i : Instr} (hop : opOf w = 17) (hfmt : (rsOf w).toNat = 16)
    (h : decodeFpSingle w = .ok i) : InRow w i := by
  unfold decodeFpSingle at h
  split at h
  case h_26 => cases h
  all_goals
    next hfunct =>
      cases h
      exact inRow_of_rs_funct hop hfmt hfunct rfl rfl

theorem decodeFpDouble_inRow {w : Word} {i : Instr} (hop : opOf w = 17) (hfmt : (rsOf w).toNat = 17)
    (h : decodeFpDouble w = .ok i) : InRow w i := by
  unfold decodeFpDouble at h
  split at h
  case h_26 => cases h
  all_goals
    next hfunct =>
      cases h
      exact inRow_of_rs_funct hop hfmt hfunct rfl rfl

theorem decodeFpWord_inRow {w : Word} {i : Instr} (hop : opOf w = 17) (hfmt : (rsOf w).toNat = 20)
    (h : decodeFpWord w = .ok i) : InRow w i := by
  unfold decodeFpWord at h
  split at h
  case h_3 => cases h
  all_goals
    next hfunct =>
      cases h
      exact inRow_of_rs_funct hop hfmt hfunct rfl rfl

theorem decodeCop0_inRow {w : Word} {i : Instr} (hop : opOf w = 16) (h : decodeCop0 w = .ok i) : InRow w i := by
  unfold decodeCop0 at h
  split at h
  case h_5 hrs =>
    split at h
    case h_3 => cases h
    all_goals
      next hrt =>
        cases h
        exact inRow_of_rs_rt hop hrs hrt rfl rfl
  case h_6 =>
    split at h
    · cases h
    next hrs => exact decodeCop0Operation_inRow hop (not_lt.mp hrs) h
  all_goals
    next hrs =>
      cases h
      exact inRow_of_rs hop hrs rfl rfl

theorem decodeCop1_inRow {w : Word} {i : Instr} (hop : opOf w = 17) (h : decodeCop1 w = .ok i) : InRow w i := by
  unfold decodeCop1 at h
  split at h
  case h_5 hrs =>
    split at h
    case h_3 => cases h
    all_goals
      next hrt =>
        cases h
        exact inRow_of_rs_rt hop hrs hrt rfl rfl
  case h_6 hfmt => exact decodeFpSingle_inRow hop hfmt h
  case h_7 hfmt => exact decodeFpDouble_inRow hop hfmt h
  case h_8 hfmt => exact decodeFpWord_inRow hop hfmt h
  case h_9 => split at h <;> cases h
  all_goals
    next hrs =>
      cases h
      exact inRow_of_rs hop hrs rfl rfl

theorem decodeCop2_inRow {w : Word} {i : Instr} (hop : opOf w = 18) (h : decodeCop2 w = .ok i) : InRow w i := by
  unfold decodeCop2 at h
  split at h
  case h_5 hrs =>
    split at h
    case h_3 => cases h
    all_goals
      next hrt =>
        cases h
        exact inRow_of_rs_rt hop hrs hrt rfl rfl
  case h_6 =>
    split at h
    · cases h
    next hrs =>
      cases h
      exact inRow_of_bit25 hop hrs rfl rfl
  all_goals
    next hrs =>
      cases h
      exact inRow_of_rs hop hrs rfl rfl

theorem decodeCop3_inRow {w : Word} {i : Instr} (hop : opOf w = 19) (h : decodeCop3 w = .ok i) : InRow w i := by
  unfold decodeCop3 at h
  split at h
  case h_5 hrs =>
    split at h
    case h_3 => cases h
    all_goals
      next hrt =>
        cases h
        exact inRow_of_rs_rt hop hrs hrt rfl rfl
  case h_6 =>
    split at h
    · cases h
    next hrs =>
      cases h
      exact inRow_of_bit25 hop hrs rfl rfl
  all_goals
    next hrs =>
      cases h
      exact inRow_of_rs hop hrs rfl rfl

/-- A word has the bits of the row of what it decodes to. -/
theorem decodeWord_inRow {w : Word} {i : Instr} (h : decodeWord w = .ok i) : InRow w i := by
  unfold decodeWord at h
  split at h
  case h_1 hop => exact decodeSpecial_inRow (eq_ofNat_of_toNat_eq hop) h
  case h_2 hop => exact decodeRegimm_inRow (eq_ofNat_of_toNat_eq hop) h
  case h_17 hop => exact decodeCop0_inRow (eq_ofNat_of_toNat_eq hop) h
  case h_18 hop => exact decodeCop1_inRow (eq_ofNat_of_toNat_eq hop) h
  case h_19 hop => exact decodeCop2_inRow (eq_ofNat_of_toNat_eq hop) h
  case h_20 hop => exact decodeCop3_inRow (eq_ofNat_of_toNat_eq hop) h
  case h_41 => cases h
  all_goals
    next hop =>
      cases h
      exact (and_op w).trans (by rw [eq_ofNat_of_toNat_eq hop]; rfl)

/-- Settles O5: the two directions are `decodeWord_inRow` and `map_opcodeRow_decodeWord`. -/
theorem decodeFollowsOpcodeTable : Obligations.DecodeFollowsOpcodeTable := by
  refine ⟨fun w i => decodeWord_inRow, fun w j h => ?_⟩
  have hrow := map_opcodeRow_decodeWord h
  cases hw : decodeWord w with
  | ok i => exact ⟨i, rfl, by simpa [hw, Except.map] using hrow⟩
  | error e => simp [hw, Except.map] at hrow

/-! ## Words of no row (R175, 45_system_cp0_tlb.md R339, R352, R360) -/

theorem runWord_of_error {w : Word} {e : DecodeError} (h : decodeWord w = .error e) (s : State) :
    runWord w s = execReserved e s := by
  unfold runWord; rw [h]

/-- The usability check comes before the exception (R352). -/
theorem raises_withCop_raise (z : BitVec 2) (s : State) (e : Exc) :
    Raises s (withCop z s (raise e s)) (if s.usable z then e else .cpu z) := by
  unfold withCop
  split <;> rfl

/-- Settles O7: `execReserved` and the instructions not valid for CP0 and CP3 do nothing but raise. -/
theorem unassignedWordsRaiseRI : Obligations.UnassignedWordsRaiseRI := by
  refine ⟨fun w s => ⟨fun op h => ?_, fun f h => ?_, fun r h => ?_, fun z rs rt h => ?_, fun f h => ?_⟩,
    fun s _ _ _ _ => ⟨rfl, rfl, rfl, rfl, fun hu => ⟨raises_withCop hu rfl, raises_withCop hu rfl⟩⟩⟩
  all_goals rw [runWord_of_error h]
  · rfl
  · rfl
  · rfl
  · exact raises_withCop_raise z s .ri
  · exact raises_withCop_raise 0 s .ri

end Sys2Proof.Proofs

/-! The integer arithmetic: the register write every instruction of 40_alu.md ends in, the overflow condition by the signs,
the results on exact integers and by halfwords, and the decoder on the spec's example words. -/

namespace Sys2Proof.Proofs

open Sys2Proof.Machine Sys2Proof.Laws

/-! ## Writing the destination (40_alu.md R200, R201) -/

theorem setGpr_eq (s : State) (rd : Reg) (v : Word) : s.setGpr rd v = { s with gpr := (s.setGpr rd v).gpr } := by
  unfold State.setGpr
  split <;> rfl

/-- An instruction that ends in `writeReg` completes, with the value it computes in the destination and the frame of
`WritesGpr`. -/
theorem writesGpr_writeReg {s : State} {rd : Reg} {v w : Word} (h : v = w) : WritesGpr s (writeReg rd v s) rd w := by
  subst h
  refine ⟨_, writeReg_eq rd v s, gprAt_setGpr_self s rd v, fun _ hq => gprAt_setGpr_of_ne s hq v,
    settledByte_congr ?_, ?_⟩
  · simp
  · rw [setGpr_eq s rd v]
    rfl

/-- The two ends of a trapping instruction, under the condition `p` in which the statement puts the overflow. -/
theorem writeRegOrOverflow_spec {s : State} {rd : Reg} {v : Word} {overflow : Bool} {p : Prop}
    (h : overflow = true ↔ p) :
    (p → Raises s (writeRegOrOverflow overflow rd v s) .ov) ∧
      (¬ p → WritesGpr s (writeRegOrOverflow overflow rd v s) rd v) := by
  rw [← h]
  cases overflow with
  | true => exact ⟨fun _ => rfl, fun hp => absurd rfl hp⟩
  | false => exact ⟨fun hp => absurd hp Bool.false_ne_true, fun _ => writesGpr_writeReg rfl⟩

/-! ## Overflow by the signs (R201) -/

/-- A sum overflows when the operands have one sign and the result the other. -/
theorem addOverflows_iff (a b : Word) : addOverflows a b = true ↔ a.msb = b.msb ∧ (a + b).msb ≠ a.msb := by
  have ha := a.two_mul_toInt_lt
  have ha' := a.le_two_mul_toInt
  have hb := b.two_mul_toInt_lt
  have hb' := b.le_two_mul_toInt
  simp only [addOverflows, bne_iff_ne, BitVec.msb_eq_toInt, BitVec.toInt_add, Int.bmod_def, ne_eq, decide_eq_decide]
  omega

/-- A difference overflows when the operands differ in sign and the result has not the first one's. -/
theorem subOverflows_iff (a b : Word) : subOverflows a b = true ↔ a.msb ≠ b.msb ∧ (a - b).msb ≠ a.msb := by
  have ha := a.two_mul_toInt_lt
  have ha' := a.le_two_mul_toInt
  have hb := b.two_mul_toInt_lt
  have hb' := b.le_two_mul_toInt
  simp only [subOverflows, bne_iff_ne, BitVec.msb_eq_toInt, BitVec.toInt_sub, Int.bmod_def, ne_eq, decide_eq_decide]
  omega

/-- Settles O15: overflow as the model computes it, on exact integers, is the condition on the signs. -/
theorem trappingArithmetic : Obligations.TrappingArithmetic := by
  intro s rd rs rt imm a b i
  have hadd := writeRegOrOverflow_spec (s := s) (rd := rd) (v := a + b) (addOverflows_iff a b)
  have haddi := writeRegOrOverflow_spec (s := s) (rd := rd) (v := a + i) (addOverflows_iff a i)
  have hsub := writeRegOrOverflow_spec (s := s) (rd := rd) (v := a - b) (subOverflows_iff a b)
  exact ⟨hadd.1, hadd.2, haddi.1, haddi.2, hsub.1, hsub.2⟩

/-! ## Results on exact integers (R204, R206, R208, R217-R220) -/

theorem add_eq_ofInt (a b : Word) : a + b = BitVec.ofInt 32 (a.toInt + b.toInt) := by
  rw [BitVec.ofInt_add, BitVec.ofInt_toInt, BitVec.ofInt_toInt]

theorem sub_eq_ofInt (a b : Word) : a - b = BitVec.ofInt 32 (a.toInt - b.toInt) := by
  rw [Int.sub_eq_add_neg, BitVec.ofInt_add, BitVec.ofInt_neg, BitVec.ofInt_toInt, BitVec.ofInt_toInt,
    BitVec.sub_eq_add_neg]

theorem sext_toInt (imm : BitVec 16) : (sext imm).toInt = imm.toInt := BitVec.toInt_signExtend_of_le (by decide)

theorem flagWord_slt (a b : Word) : flagWord (a.slt b) = if a.toInt < b.toInt then 1 else 0 := by
  simp [flagWord, BitVec.slt_iff_toInt_lt]

theorem flagWord_ult (a b : Word) : flagWord (a.ult b) = if a.toNat < b.toNat then 1 else 0 := by
  simp [flagWord, BitVec.ult_iff_toNat_lt]

/-- Settles O16. -/
theorem registerArithmeticResult : Obligations.RegisterArithmeticResult := by
  intro s rd rs rt a b
  exact ⟨writesGpr_writeReg (BitVec.add_def a b), writesGpr_writeReg (sub_eq_ofInt a b), writesGpr_writeReg rfl,
    writesGpr_writeReg rfl, writesGpr_writeReg rfl, writesGpr_writeReg BitVec.not_or,
    writesGpr_writeReg (flagWord_slt a b), writesGpr_writeReg (flagWord_ult a b)⟩

/-! ## Results by halfwords (R213-R216) -/

theorem zext_eq_append (imm : BitVec 16) : zext imm = 0#16 ++ imm := BitVec.setWidth_eq_append (by decide)

/-- A bitwise operation with a zero-extended immediate is one on each halfword, with zero on the upper one. -/
theorem bitwise_zext {op : ∀ {n : Nat}, BitVec n → BitVec n → BitVec n}
    (hop : ∀ x₁ x₂ y₁ y₂ : BitVec 16, op (x₁ ++ y₁) (x₂ ++ y₂) = op x₁ x₂ ++ op y₁ y₂) (a : Word) (imm : BitVec 16) :
    op a (zext imm) = op (a.extractLsb' 16 16) 0#16 ++ op (a.extractLsb' 0 16) imm := by
  rw [zext_eq_append, ← hop, BitVec.extractLsb'_append_extractLsb']

theorem and_zext (a : Word) (imm : BitVec 16) : a &&& zext imm = 0#16 ++ (a.extractLsb' 0 16 &&& imm) := by
  rw [bitwise_zext (op := (· &&& ·)) (fun _ _ _ _ => BitVec.and_append), BitVec.and_zero]

theorem or_zext (a : Word) (imm : BitVec 16) :
    a ||| zext imm = a.extractLsb' 16 16 ++ (a.extractLsb' 0 16 ||| imm) := by
  rw [bitwise_zext (op := (· ||| ·)) (fun _ _ _ _ => BitVec.or_append), BitVec.or_zero]

theorem xor_zext (a : Word) (imm : BitVec 16) :
    a ^^^ zext imm = a.extractLsb' 16 16 ++ (a.extractLsb' 0 16 ^^^ imm) := by
  rw [bitwise_zext (op := (· ^^^ ·)) (fun _ _ _ _ => BitVec.xor_append), BitVec.xor_zero]

/-- Settles O17: the immediate is sign-extended for `addiu`, `slti` and `sltiu`, a low halfword for the others. -/
theorem immediateArithmeticResult : Obligations.ImmediateArithmeticResult := by
  intro s rt rs imm a
  have haddiu : a + sext imm = BitVec.ofInt 32 (a.toInt + imm.toInt) := by rw [add_eq_ofInt, sext_toInt]
  have hslti : flagWord (a.slt (sext imm)) = if a.toInt < imm.toInt then 1 else 0 := by rw [flagWord_slt, sext_toInt]
  exact ⟨writesGpr_writeReg haddiu, writesGpr_writeReg (and_zext a imm), writesGpr_writeReg (or_zext a imm),
    writesGpr_writeReg (xor_zext a imm), writesGpr_writeReg rfl, writesGpr_writeReg hslti,
    writesGpr_writeReg (flagWord_ult a (sext imm))⟩

/-! ## The spec's example words (30_encoding.md R168-R174) -/

/-- Settles O6: each word is the encoder's, so the decoder gives its instruction back. -/
theorem decodeOfSpecWords : Obligations.DecodeOfSpecWords :=
  ⟨decodeOfEncode (.add 8 9 10), decodeOfEncode (.sll 8 9 4), decodeOfEncode (.sllv 8 9 10),
    decodeOfEncode (.mult 9 10), decodeOfEncode (.lw 8 4 9), decodeOfEncode (.swl 24 1 0),
    decodeOfEncode (.bne 8 9 0xFFFF), decodeOfEncode (.jal 0x40010), decodeOfEncode (.mfc0 8 12),
    decodeOfEncode .rfe, decodeOfEncode (.addS 0 2 4), decodeOfEncode (.lwc1 2 24 9)⟩

end Sys2Proof.Proofs

/-! The shifts: each is a multiplication or a division by a power of two, with the amount taken as a number below 32. -/

namespace Sys2Proof.Proofs

open Sys2Proof.Machine Sys2Proof.Laws

/-! ## Shifting by a number of bits (41_shift.md R231-R233) -/

/-- The left shift is the product, wrapped to a word. -/
theorem shiftLeft_eq_ofNat_mul (v : Word) (n : Nat) : v <<< n = BitVec.ofNat 32 (v.toNat * 2 ^ n) :=
  congrArg (BitVec.ofNat 32) (Nat.shiftLeft_eq v.toNat n)

theorem ushiftRight_eq_ofNat_div (v : Word) (n : Nat) : v >>> n = BitVec.ofNat 32 (v.toNat / 2 ^ n) := by
  rw [← Nat.shiftRight_eq_div_pow, ← BitVec.toNat_ushiftRight, BitVec.ofNat_toNat, BitVec.setWidth_eq]

/-- The arithmetic shift rounds the quotient towards minus infinity, as `Int`'s division by a positive number does. -/
theorem sshiftRight_eq_ofInt_div (v : Word) (n : Nat) : v.sshiftRight n = BitVec.ofInt 32 (v.toInt / 2 ^ n) := by
  rw [BitVec.sshiftRight, Int.shiftRight_eq_div_pow, Int.natCast_pow, Nat.cast_ofNat]

/-! ## The variable amount (R234-R236) -/

theorem shiftAmount_toNat (v : Word) : (shiftAmount v).toNat = v.toNat % 32 := BitVec.toNat_setWidth 5 v

/-- Settles O18: what a shift by a number computes holds of both amounts, `sa` and the low five bits of `rs`. -/
theorem shiftResult : Obligations.ShiftResult := by
  intro s rd rt rs sa v n
  have hn : n = (shiftAmount (s.src rs)).toNat := (shiftAmount_toNat (s.src rs)).symm
  rw [hn]
  exact ⟨writesGpr_writeReg (shiftLeft_eq_ofNat_mul v _), writesGpr_writeReg (ushiftRight_eq_ofNat_div v _),
    writesGpr_writeReg (sshiftRight_eq_ofInt_div v _), writesGpr_writeReg (shiftLeft_eq_ofNat_mul v _),
    writesGpr_writeReg (ushiftRight_eq_ofNat_div v _), writesGpr_writeReg (sshiftRight_eq_ofInt_div v _)⟩

end Sys2Proof.Proofs

/-! HI and LO: what a writer does to the registers of the reads just before it, the exact products and quotients, and the
moves. -/

namespace Sys2Proof.Proofs

open Sys2Proof.Machine Sys2Proof.Laws

/-! ## The reads just before a writer (42_muldiv.md R256) -/

theorem foldl_rereadOne_eq (hi lo : Option Word) (l : List HiLoRead) (s : State) :
    ∃ g, l.foldl (fun t x => t.rereadOne hi lo x) s = { s with gpr := g } := by
  induction l generalizing s with
  | nil => exact ⟨s.gpr, rfl⟩
  | cons x l ih =>
    obtain ⟨g, hx⟩ := rereadOne_eq s hi lo x
    obtain ⟨g', hl⟩ := ih (s.rereadOne hi lo x)
    exact ⟨g', by rw [List.foldl_cons, hl, hx]⟩

/-- A writer of HI or LO touches nothing but general registers and the marks of the reads. -/
theorem reread_eq (s : State) (hi lo : Option Word) :
    ∃ g r, s.reread hi lo = { s with gpr := g, pipe := { s.pipe with hiloReads := r } } := by
  obtain ⟨g, h⟩ := foldl_rereadOne_eq hi lo s.pipe.hiloReads s
  unfold State.reread
  rw [h]
  exact ⟨_, _, rfl⟩

/-- A read is rewritten with the new value of its own half. -/
theorem rewritten_both (x : HiLoRead) (hi lo : Word) :
    x.rewritten (some hi) (some lo) = some (if x.isHi then hi else lo) := by
  unfold HiLoRead.rewritten
  cases x.isHi <;> rfl

/-- An instruction that ends in `writeHiLo` completes with the frame of `WritesHiLo`. -/
theorem writesHiLo_writeHiLo (s : State) (hi lo : Word) : WritesHiLo s (writeHiLo hi lo s) hi lo := by
  obtain ⟨g, r, h⟩ := reread_eq s (some hi) (some lo)
  refine ⟨_, done_eq _, rfl, rfl, rfl, fun q => ?_, settledByte_congr ?_, ?_⟩
  · rcases reread_gprAt s (some hi) (some lo) q with hq | ⟨x, hx, hrd, hq⟩
    · exact .inl hq
    · rw [rewritten_both] at hq
      exact .inr ⟨x, hx, hrd, (Option.some.inj hq).symm⟩
  · rw [h]
    rfl
  · rw [h]
    rfl

/-! ## Products (R243, R244) -/

theorem product_halves (p : BitVec 64) : p.extractLsb' 32 32 ++ p.extractLsb' 0 32 = p :=
  BitVec.extractLsb'_append_extractLsb' (w := 32)

/-- The product of two signed words fits in 64 bits. -/
theorem product_toInt (a b : Word) : (product a.toInt b.toInt).toInt = a.toInt * b.toInt := by
  have hlow := BitVec.le_toInt_mul_toInt (x := a) (y := b)
  have hhigh := BitVec.toInt_mul_toInt_le (x := a) (y := b)
  exact BitVec.toInt_ofInt_eq_self (by decide) (by omega) (by omega)

/-- The product of two unsigned words fits in 64 bits. -/
theorem product_toNat (a b : Word) : (product a.toNat b.toNat).toNat = a.toNat * b.toNat := by
  have hlt : a.toNat * b.toNat < 2 ^ 64 := BitVec.toNat_mul_toNat_lt
  rw [product, ← Int.natCast_mul, BitVec.ofInt_natCast, BitVec.toNat_ofNat, Nat.mod_eq_of_lt hlt]

/-- Settles O19: both end in `writeHiLo` with the halves of the product. -/
theorem multiplyResult : Obligations.MultiplyResult := by
  intro s rs rt a b
  refine ⟨⟨_, _, writesHiLo_writeHiLo s _ _, ?_⟩, ⟨_, _, writesHiLo_writeHiLo s _ _, ?_⟩⟩
  · rw [product_halves, product_toInt]
  · rw [product_halves, product_toNat]

/-! ## Quotients (R245-R248) -/

theorem divide_of_ne_zero (a b : Int) {divisor : Word} (h : divisor ≠ 0) (s : State) :
    divide a b divisor s = writeHiLo (BitVec.ofInt 32 (a.tmod b)) (BitVec.ofInt 32 (a.tdiv b)) s := if_neg h

/-- A division completes with the frame of `WritesHiLo`, by zero too (R247). -/
theorem writesHiLo_divide (a b : Int) (divisor : Word) (s : State) :
    ∃ hi lo, WritesHiLo s (divide a b divisor s) hi lo := by
  unfold divide
  split <;> exact ⟨_, _, writesHiLo_writeHiLo s _ _⟩

theorem ofInt_tmod_toNat (a b : Word) :
    BitVec.ofInt 32 ((a.toNat : Int).tmod b.toNat) = BitVec.ofNat 32 (a.toNat % b.toNat) := by
  rw [← Int.ofNat_tmod, BitVec.ofInt_natCast]

theorem ofInt_tdiv_toNat (a b : Word) :
    BitVec.ofInt 32 ((a.toNat : Int).tdiv b.toNat) = BitVec.ofNat 32 (a.toNat / b.toNat) := by
  rw [← Int.ofNat_tdiv, BitVec.ofInt_natCast]

/-- The remainder of `div` is `BitVec`'s remainder with the dividend's sign. -/
theorem ofInt_tmod_toInt (a b : Word) : BitVec.ofInt 32 (a.toInt.tmod b.toInt) = a.srem b := by
  rw [← BitVec.toInt_srem, BitVec.ofInt_toInt]

/-- The quotient of `div` is `BitVec`'s, which wraps in the one case that overflows. -/
theorem ofInt_tdiv_toInt (a b : Word) : BitVec.ofInt 32 (a.toInt.tdiv b.toInt) = a.sdiv b :=
  BitVec.eq_of_toInt_eq (by rw [BitVec.toInt_ofInt, BitVec.toInt_sdiv])

/-- The quotient and remainder of two signed words, where the quotient is a signed word. -/
theorem sdiv_mul_add_srem {a b : Word} (h : ¬ (a = 0x80000000 ∧ b = 0xFFFFFFFF)) :
    a.toInt = (a.sdiv b).toInt * b.toInt + (a.srem b).toInt := by
  rw [BitVec.toInt_sdiv_of_ne_or_ne a b (not_and_or.mp h), BitVec.toInt_srem, Int.tdiv_mul_add_tmod]

theorem srem_natAbs_lt (a : Word) {b : Word} (h : b ≠ 0) : (a.srem b).toInt.natAbs < b.toInt.natAbs := by
  have hb : b.toInt ≠ 0 := fun h0 => h (BitVec.eq_of_toInt_eq h0)
  rw [BitVec.toInt_srem, Int.natAbs_tmod]
  exact Nat.mod_lt _ (Int.natAbs_pos.mpr hb)

theorem srem_zero_or_msb (a b : Word) : a.srem b = 0 ∨ (a.srem b).msb = a.msb := by
  by_cases h : a.srem b = 0
  · exact .inl h
  · have hne : decide (a.srem b ≠ 0) = true := decide_eq_true h
    exact .inr (by rw [BitVec.msb_srem, hne, Bool.and_true])

/-- Settles O20: `div` computes `BitVec`'s signed quotient and remainder, `divu` those of `Nat`. -/
theorem divideResult : Obligations.DivideResult := by
  intro s rs rt a b
  refine ⟨fun hb => ⟨?_, a.srem b, a.sdiv b, ?_, ?_⟩, fun _ => ⟨writesHiLo_divide _ _ _ s, writesHiLo_divide _ _ _ s⟩⟩
  · show WritesHiLo s (divide a.toNat b.toNat b s) _ _
    rw [divide_of_ne_zero _ _ hb, ofInt_tmod_toNat, ofInt_tdiv_toNat]
    exact writesHiLo_writeHiLo s _ _
  · show WritesHiLo s (divide a.toInt b.toInt b s) _ _
    rw [divide_of_ne_zero _ _ hb, ofInt_tmod_toInt, ofInt_tdiv_toInt]
    exact writesHiLo_writeHiLo s _ _
  · split
    · rename_i h
      rw [h.1, h.2]
      decide
    · rename_i h
      exact ⟨sdiv_mul_add_srem h, srem_natAbs_lt a hb, srem_zero_or_msb a b⟩

/-! ## Moves (R249-R252) -/

/-- `mfhi` and `mflo` are one operation, on the half they read. -/
theorem exec_moveFrom (isHi : Bool) (rd : Reg) (s : State) :
    exec (if isHi then .mfhi rd else .mflo rd) s = readHiLo rd isHi (if isHi then s.hi else s.lo) s := by
  cases isHi <;> rfl

/-- What `mthi` (`toHi`) and `mtlo` leave before the program counter moves on. -/
def movedTo (toHi : Bool) (v : Word) (s : State) : State :=
  { (s.reread (if toHi then some v else none) (if toHi then none else some v)).useHiLo with
    hi := if toHi then v else s.companion s.hi
    lo := if toHi then s.companion s.lo else v }

theorem exec_moveTo (toHi : Bool) (rs : Reg) (s : State) :
    exec (if toHi then .mthi rs else .mtlo rs) s = .next (movedTo toHi (s.src rs) s).advance := by
  cases toHi <;> rfl

theorem companion_of_read {s : State} (h : s.pipe.hiloFresh = false) (v : Word) : s.companion v = v := by
  rw [State.companion, h, if_neg Bool.false_ne_true]

/-- A move rewrites the reads of its own half only. -/
theorem rewritten_moveTo (x : HiLoRead) (toHi : Bool) (v : Word) :
    x.rewritten (if toHi then some v else none) (if toHi then none else some v) =
      if x.isHi = toHi then some v else none := by
  unfold HiLoRead.rewritten
  cases x.isHi <;> cases toHi <;> rfl

/-- A register after a move: as before, or the moved value where the same half was read into it just before. -/
theorem movedTo_gprAt (toHi : Bool) (v : Word) (s : State) (q : Reg) :
    (movedTo toHi v s).gprAt q = s.gprAt q ∨
      (movedTo toHi v s).gprAt q = v ∧ ∃ x ∈ s.pipe.hiloReads, x.rd = q ∧ x.isHi = toHi := by
  rcases reread_gprAt s (if toHi then some v else none) (if toHi then none else some v) q with h | ⟨x, hx, hrd, h⟩
  · exact .inl h
  · rw [rewritten_moveTo] at h
    obtain ⟨hhalf, hv⟩ := Option.ite_none_right_eq_some.mp h
    exact .inr ⟨(Option.some.inj hv).symm, x, hx, hrd, hhalf⟩

theorem movedTo_eq (toHi : Bool) (v : Word) (s : State) :
    ∃ g r, movedTo toHi v s = { s with
      gpr := g, hi := if toHi then v else s.companion s.hi, lo := if toHi then s.companion s.lo else v
      pipe := { s.pipe with hiloReads := r, hiloFresh := false } } := by
  obtain ⟨g, r, h⟩ := reread_eq s (if toHi then some v else none) (if toHi then none else some v)
  exact ⟨g, r, by rw [movedTo, h]; rfl⟩

/-- `mfhi` and `mflo`: the half read, in the register. -/
theorem readHiLo_spec (s : State) (rd : Reg) (isHi : Bool) (v : Word) :
    ∃ t, readHiLo rd isHi v s = .next t ∧ t.gprAt rd = (if rd = 0 then 0 else v) ∧
      (∀ q, q ≠ rd → t.gprAt q = s.gprAt q) ∧ SameMemory s t ∧
      t = { s with
            gpr := t.gpr, pc := s.npc, npc := s.npc + 4, inDelay := false
            pipe := { s.pipe with hiloFresh := false, hiloReads := ⟨rd, isHi, v, 0⟩ :: s.pipe.hiloReads } } := by
  refine ⟨_, done_eq _, gprAt_setGpr_self s.useHiLo rd v, fun _ hq => gprAt_setGpr_of_ne s.useHiLo hq v,
    settledByte_congr ?_, ?_⟩
  all_goals
    rw [setGpr_eq s.useHiLo rd v]
    rfl

/-- Settles O21: `mfhi` and `mflo` by `readHiLo_spec`, `mthi` and `mtlo` as the state `movedTo`. -/
theorem movesOfHiLo : Obligations.MovesOfHiLo := by
  refine ⟨fun s rd isHi => ?_, fun s rs toHi => ?_, fun s t rs x toHi _ hx _ ht => ?_⟩
  · simp only [exec_moveFrom]
    exact readHiLo_spec s rd isHi _
  · obtain ⟨g, r, h⟩ := movedTo_eq toHi (s.src rs) s
    refine ⟨_, exec_moveTo toHi rs s, ?_, fun hread => ?_, fun q hq => ?_, settledByte_congr ?_, ?_⟩
    · cases toHi <;> rfl
    · cases toHi <;> exact companion_of_read hread _
    · rcases movedTo_gprAt toHi (s.src rs) s q with hsame | ⟨-, x, hx, hrd, hhalf⟩
      · exact hsame
      · exact ((hq x hx).elim (· hrd) (· hhalf)).elim
    · rw [h]
      rfl
    · rw [h]
      rfl
  · rw [exec_moveTo] at ht
    rw [← next_inj ht, ← hx]
    rcases movedTo_gprAt toHi (s.src rs) s x.rd with hsame | ⟨hnew, -⟩
    · exact .inl hsame
    · exact .inr hnew

end Sys2Proof.Proofs

/-! Loads and stores: the lanes an address selects, the words `lwl` and `lwr` merge, and the byte enables of the stores. -/

namespace Sys2Proof.Proofs

open Sys2Proof.Machine Sys2Proof.Laws

/-! ## The lane of an aligned access (43_loadstore.md R261) -/

theorem misaligned_of_aligned {va : Word} {size : Nat} (h : va.toNat % size = 0) : misaligned va size = false :=
  Bool.eq_false_iff.mpr fun hm => (misaligned_iff va size).mp hm h

theorem halfLane_eq (s : State) {va : Word} (h : va.toNat % 4 % 2 = 0) :
    s.halfLane va = if s.bigEndianCpu then 2 - va.toNat % 4 else va.toNat % 4 := by
  have heven : ∀ k : BitVec 2, k.toNat % 2 = 0 → (k ^^^ 0b10#2).toNat = 2 - k.toNat := by decide
  have hlow : (va.setWidth 2).toNat = va.toNat % 4 := BitVec.toNat_setWidth ..
  unfold State.halfLane
  rw [← hlow] at h ⊢
  cases s.bigEndianCpu
  · exact congrArg BitVec.toNat BitVec.xor_zero
  · exact heven _ h

/-! ## The aligned loads (R265-R269) -/

/-- Settles O23: each load is `loadReg` with its part of the word delivered. -/
theorem alignedLoadResult : Obligations.AlignedLoadResult := by
  intro s rt base offset pa u va hp hn ht hm w k b h
  have hb : s.byteLane va = b := byteLane_eq s va
  have hh : k % 2 = 0 → s.halfLane va = h := halfLane_eq s
  have heven : k % 2 = 0 → va.toNat % 2 = 0 := by omega
  have load : ∀ {size f v}, va.toNat % size = 0 → f w = v → LoadsGpr s (loadReg rt va size f s) rt v u pa :=
    fun ha hv => hv ▸ loadReg_loads hp hn ht hm (misaligned_of_aligned ha) rt _
  exact ⟨load (Nat.mod_one _) (by rw [← hb]; rfl), load (Nat.mod_one _) (by rw [← hb]; rfl),
    fun hk => load (heven hk) (by rw [← hh hk]; rfl), fun hk => load (heven hk) (by rw [← hh hk]; rfl),
    fun hk => load hk rfl⟩

/-! ## The words `lwl` and `lwr` merge (R275-R277) -/

theorem mergeBits_getLsbD (mask keep other : Word) {i : Nat} (hi : i < 32) :
    (mergeBits mask keep other).getLsbD i = if mask.getLsbD i then keep.getLsbD i else other.getLsbD i := by
  unfold mergeBits
  rw [BitVec.getLsbD_or, BitVec.getLsbD_and, BitVec.getLsbD_and, BitVec.getLsbD_not]
  cases mask.getLsbD i <;> simp [hi]

/-- Under a mask without the low `n` bits, the low part of a word moves up to sit above the low `n` bits of the other. -/
theorem mergeBits_shiftLeft {m n : Nat} (h : m + n = 32) (mem r : Word) :
    mergeBits (BitVec.allOnes 32 <<< n) (mem <<< n) r = (mem.extractLsb' 0 m ++ r.extractLsb' 0 n).cast h := by
  apply BitVec.eq_of_getLsbD_eq
  intro i hi
  rw [mergeBits_getLsbD _ _ _ hi, BitVec.getLsbD_shiftLeft, BitVec.getLsbD_allOnes, BitVec.getLsbD_cast,
    BitVec.getLsbD_append]
  by_cases hn : i < n
  · simp [hn]
  · have hm : i - n < m := by omega
    simp [hn, hi, hm, show i - n < 32 by omega]

/-- Under a mask without the high `n` bits, the high part of a word moves down to sit below the high `n` bits of the
other. -/
theorem mergeBits_ushiftRight {m n : Nat} (h : n + m = 32) (mem r : Word) :
    mergeBits (BitVec.allOnes 32 >>> n) (mem >>> n) r = (r.extractLsb' m n ++ mem.extractLsb' n m).cast h := by
  apply BitVec.eq_of_getLsbD_eq
  intro i hi
  rw [mergeBits_getLsbD _ _ _ hi, BitVec.getLsbD_ushiftRight, BitVec.getLsbD_allOnes, BitVec.getLsbD_cast,
    BitVec.getLsbD_append]
  by_cases hm : i < m
  · simp [hm, show n + i < 32 by omega]
  · have hn : i - m < n := by omega
    simp [hm, hn, show ¬ n + i < 32 by omega, show m + (i - m) = i by omega]

theorem mergeBits_allOnes (mem r : Word) : mergeBits (BitVec.allOnes 32) mem r = mem := by
  rw [mergeBits, BitVec.and_allOnes, BitVec.not_allOnes, BitVec.and_zero, BitVec.or_zero]

/-- `lwl` takes the whole word when `byte` of R275 is 3. -/
theorem loadLeft_three (mem r : Word) : loadLeft mem r 3 = mem := by
  show mergeBits (BitVec.allOnes 32 <<< 0) (mem <<< 0) r = mem
  rw [BitVec.shiftLeft_zero, BitVec.shiftLeft_zero, mergeBits_allOnes]

/-- `lwr` takes the whole word when `byte` of R275 is 0. -/
theorem loadRight_zero (mem r : Word) : loadRight mem r 0 = mem := by
  show mergeBits (BitVec.allOnes 32 >>> 0) (mem >>> 0) r = mem
  rw [BitVec.ushiftRight_zero, BitVec.ushiftRight_zero, mergeBits_allOnes]

/-- Settles O24: for each byte position, the merge under the mask is the two parts put together. -/
theorem unalignedLoadResult : Obligations.UnalignedLoadResult := by
  intro s rt base offset pa u va hp hn ht hm w r byte
  have hb : s.byteLane va = byte := byteLane_eq s va
  have hlt : byte < 4 := hb ▸ byteLane_lt s va
  have load : ∀ {f v}, f w = v → LoadsGpr s (loadReg rt va 1 f s) rt v u pa :=
    fun hv => hv ▸ loadReg_loads hp hn ht hm (misaligned_of_aligned (Nat.mod_one _)) rt _
  clear_value byte
  refine ⟨load ?_, load ?_⟩
  · show loadLeft w r (s.byteLane va) = _
    rw [hb]
    interval_cases byte
    · exact mergeBits_shiftLeft (m := 8) rfl w r
    · exact mergeBits_shiftLeft (m := 16) rfl w r
    · exact mergeBits_shiftLeft (m := 24) rfl w r
    · exact loadLeft_three w r
  · show loadRight w r (s.byteLane va) = _
    rw [hb]
    interval_cases byte
    · exact loadRight_zero w r
    · exact mergeBits_ushiftRight (n := 8) rfl w r
    · exact mergeBits_ushiftRight (n := 16) rfl w r
    · exact mergeBits_ushiftRight (n := 24) rfl w r

/-! ## The byte enables of a store (R270-R272, R278, R279) -/

theorem lanes_eq_shiftLeft (lo n : Nat) : lanes lo n = BitVec.ofNat 4 (2 ^ n - 1) <<< lo := by
  apply BitVec.eq_of_toNat_eq
  simp [lanes, Nat.shiftLeft_eq, Nat.mod_mul_mod]

/-- Settles O25: each store is `writeMem` of its data and byte enables. -/
theorem storeResult : Obligations.StoreResult := by
  intro s rt base offset pa u va hc hp hn ht v k b h
  have hb : s.byteLane va = b := byteLane_eq s va
  have hlt : b < 4 := hb ▸ byteLane_lt s va
  have hh : k % 2 = 0 → s.halfLane va = h := halfLane_eq s
  have heven : k % 2 = 0 → va.toNat % 2 = 0 := by omega
  have store : ∀ {size d d' be be'}, va.toNat % size = 0 → d = d' → be = be' →
      StoresLanes s (writeMem va size d be s) pa d' be' :=
    fun ha hd hbe => hd ▸ hbe ▸ writeMem_stores hc hp hn ht (misaligned_of_aligned ha) _ _
  have hshift : 24 - 8 * b = 8 * (3 - b) := by omega
  clear_value b
  refine ⟨store (Nat.mod_one _) (by rw [← hb]; rfl) ?sbLanes,
    fun hk => store (heven hk) (by rw [← hh hk]; rfl) ?shLanes, fun hk => store hk rfl rfl, fun hk ⟨hu, hfpa⟩ => ?swc1,
    store (Nat.mod_one _) ?swlData ?swlLanes, store (Nat.mod_one _) (by rw [← hb]; rfl) ?swrLanes⟩
  case sbLanes =>
    rw [← hb]
    exact lanes_eq_shiftLeft _ 1
  case shLanes =>
    rw [← hh hk]
    exact lanes_eq_shiftLeft _ 2
  case swc1 =>
    have hdata : (if s.cfg.hasFpa then s.srcFpr rt else s.free .noFpa) = s.srcFpr rt := if_pos hfpa
    show StoresLanes s (withCop 1 s _) _ _ _
    rw [withCop_of_usable hu]
    exact store hk hdata rfl
  case swlData =>
    rw [← hshift, ← hb]
    rfl
  case swlLanes =>
    show lanes 0 (s.byteLane va + 1) = _
    rw [hb]
    interval_cases b <;> rfl
  case swrLanes =>
    show lanes (s.byteLane va) (4 - s.byteLane va) = _
    rw [hb]
    interval_cases b <;> rfl

end Sys2Proof.Proofs

/-! Branches and jumps: where they go, what the linking ones write, the coprocessor conditions, and the two sequences
that stop. -/

namespace Sys2Proof.Proofs

open Sys2Proof.Machine Sys2Proof.Laws

/-! ## The targets (44_branch_jump.md R304) -/

/-- The offset in words, sign-extended: its exact value times four. -/
theorem sext_shiftLeft_two (offset : BitVec 16) : sext offset <<< 2 = BitVec.ofInt 32 (4 * offset.toInt) := by
  rw [BitVec.shiftLeft_eq_mul_twoPow, ← BitVec.ofInt_toInt (x := sext offset), sext_toInt, mul_comm, BitVec.ofInt_mul]
  rfl

theorem branchTarget_eq (s : State) (offset : BitVec 16) : s.branchTarget offset = branchAddress s offset := by
  have hslot : BitVec.ofInt 32 ((s.pc + 4).toNat : Int) = s.pc + 4 := by
    rw [BitVec.ofInt_natCast, BitVec.ofNat_toNat, BitVec.setWidth_eq]
  rw [State.branchTarget, branchAddress, BitVec.ofInt_add, hslot, sext_shiftLeft_two]
  rfl

/-- The target of `j` and `jal` is the region of `pc + 4`, the field and two zeros, put together. -/
theorem jumpTarget_eq (s : State) (target : BitVec 26) :
    s.jumpTarget target = (s.pc + 4).extractLsb' 28 4 ++ target ++ 0#2 := by
  have hmask : (0xF0000000 : Word) = BitVec.allOnes 32 <<< 28 := by decide
  apply BitVec.eq_of_getLsbD_eq
  intro i hi
  rw [State.jumpTarget, mergeBits_getLsbD _ _ _ hi, hmask, BitVec.getLsbD_shiftLeft _ 28, BitVec.getLsbD_allOnes,
    BitVec.getLsbD_append, BitVec.getLsbD_append]
  by_cases hregion : i < 28
  · by_cases hlow : i < 2
    · simp [hregion, hlow]
    · simp [hregion, hlow, hi, show i - 2 < 26 by omega]
  · simp [hregion, hi, show ¬ i < 2 by omega, show ¬ i - 2 < 26 by omega, show i - 28 < 32 by omega,
      show i - 28 < 4 by omega, show i - 2 - 26 = i - 28 by omega, show 28 + (i - 28) = i by omega]

/-! ## Where a branch or jump goes, and its link (R300, R303) -/

theorem branchesTo_branchTo {s : State} (hd : s.inDelay = false) (taken : Bool) (target : Word) :
    BranchesTo s (branchTo s taken target) (if taken then target else s.npc + 4) :=
  ⟨_, branchTo_of_not_inDelay hd taken target, fun _ => rfl, fun _ => rfl, rfl⟩

/-- The link is written before the branch, which goes where it would go without it. -/
theorem linksAndBranchesTo_branchTo {s : State} (hd : s.inDelay = false) (rd : Reg) (taken : Bool) (target : Word) :
    LinksAndBranchesTo s (branchTo (s.setGpr rd s.link) taken target) rd (if taken then target else s.npc + 4) := by
  refine ⟨_, branchTo_of_not_inDelay (by simpa using hd) taken target, gprAt_setGpr_self s rd _,
    fun _ hq => gprAt_setGpr_of_ne s hq _, settledByte_congr ?_, ?_⟩
  · simp
  · rw [setGpr_eq s rd s.link]

theorem branchesTo_branchIf {s : State} (hd : s.inDelay = false) {taken : Bool} {offset : BitVec 16} {a : Word}
    (ha : (if taken then branchAddress s offset else s.npc + 4) = a) : BranchesTo s (branchIf taken offset s) a := by
  rw [← ha, ← branchTarget_eq]
  exact branchesTo_branchTo hd taken _

theorem linksAndBranchesTo_branchAndLink {s : State} (hd : s.inDelay = false) {taken : Bool} {offset : BitVec 16}
    {a : Word} (ha : (if taken then branchAddress s offset else s.npc + 4) = a) :
    LinksAndBranchesTo s (branchAndLink taken offset s) 31 a := by
  rw [← ha, ← branchTarget_eq]
  exact linksAndBranchesTo_branchTo hd 31 taken _

/-! ## The conditions (R306-R311) -/

/-- A branch taken when `p` fails goes where one taken when `p` holds does not. -/
theorem ite_of_iff_not {taken : Bool} {p : Prop} [Decidable p] (h : taken = true ↔ ¬ p) (a b : Word) :
    (if taken then a else b) = if p then b else a := by
  rw [if_congr h rfl rfl, ite_not]

theorem msb_iff_toInt_neg (a : Word) : a.msb = true ↔ a.toInt < 0 := by
  rw [BitVec.msb_eq_toInt, decide_eq_true_iff]

theorem not_msb_iff_not_toInt_neg (a : Word) : (!a.msb) = true ↔ ¬ a.toInt < 0 := by
  rw [Bool.not_eq_true', ← Bool.not_eq_true, msb_iff_toInt_neg]

/-- Greater than zero is neither negative nor zero. -/
theorem toInt_pos_iff (a : Word) : 0 < a.toInt ↔ a.msb = false ∧ a ≠ 0 := by
  have hzero : a = 0 ↔ a.toInt = 0 := BitVec.toInt_inj.symm
  rw [← Bool.not_eq_true, msb_iff_toInt_neg, ne_eq, hzero]
  omega

/-- Settles O36: each condition as the model computes it is the statement's, and the target is `branchTarget_eq`. -/
theorem conditionalBranch : Obligations.ConditionalBranch := by
  intro s rs rt offset hd a b there on
  exact ⟨branchesTo_branchIf hd (if_congr beq_iff_eq rfl rfl), branchesTo_branchIf hd (ite_of_iff_not bne_iff_ne _ _),
    branchesTo_branchIf hd (if_congr decide_eq_true_iff rfl rfl),
    branchesTo_branchIf hd (if_congr (decide_eq_true_iff.trans (toInt_pos_iff a)) rfl rfl),
    branchesTo_branchIf hd (if_congr (msb_iff_toInt_neg a) rfl rfl),
    branchesTo_branchIf hd (ite_of_iff_not (not_msb_iff_not_toInt_neg a) _ _),
    linksAndBranchesTo_branchAndLink hd (if_congr (msb_iff_toInt_neg a) rfl rfl),
    linksAndBranchesTo_branchAndLink hd (ite_of_iff_not (not_msb_iff_not_toInt_neg a) _ _)⟩

/-! ## The jumps (R314-R317) -/

/-- `jalr` links and branches, whether or not it jumps through its own link register (U27, log entry 23). -/
theorem linksAndBranchesTo_execJalr {s : State} (hd : s.inDelay = false) (rd rs : Reg) :
    LinksAndBranchesTo s (exec (.jalr rd rs) s) rd (if rs = rd then s.free .jalrTarget else s.src rs) :=
  linksAndBranchesTo_branchTo hd rd true _

/-- Settles O37. -/
theorem jump : Obligations.Jump := by
  intro s rd rs target hd dest
  have hdest : s.jumpTarget target = dest := jumpTarget_eq s target
  refine ⟨?_, ?_, branchesTo_branchTo hd true _, fun hne => ?_⟩
  · rw [← hdest]
    exact branchesTo_branchTo hd true _
  · rw [← hdest]
    exact linksAndBranchesTo_branchTo hd 31 true _
  · have hjalr := linksAndBranchesTo_execJalr hd rd rs
    rwa [if_neg hne] at hjalr

/-- Settles O38: the address is the free word of this step. -/
theorem jalrOfItsOwnLink : Obligations.JalrOfItsOwnLink := fun _ r hd => ⟨_, linksAndBranchesTo_execJalr hd r r⟩

/-! ## The coprocessor branches (R318, 46_coprocessor_fpa.md R427) -/

/-- The condition of a coprocessor where nothing leaves it open: FCR31.C past the window of R594, or a pin that the
R3041 has kept (10_state.md R63, log entry 8). -/
theorem cpCond_of_settled {s : State} {z : BitVec 2} (hfpa : z = 1 → s.cfg.hasFpa = true → s.pipe.condWin = 0)
    (hpin : s.cfg.is3041 = true → 2 ≤ z.toNat → NoRecentMtc0 s ∧ s.cp0.busCtrl.getLsbD 13 = true) :
    s.cpCond z =
      if z = 1 ∧ s.cfg.hasFpa = true then s.fcr31.getLsbD 23 else s.pins.brCond.getLsbD z.toNat := by
  unfold State.cpCond
  split
  case isTrue h => exact if_pos (hfpa h.1 h.2)
  case isFalse =>
    refine if_neg fun ⟨h3041, hz, hbr⟩ => ?_
    obtain ⟨hlate, hkept⟩ := hpin h3041 hz
    rw [cp0View_nil hlate, hkept] at hbr
    cases hbr

theorem branchesTo_branchOnCop {s : State} (hd : s.inDelay = false) {z : BitVec 2} (hu : s.usable z = true)
    {want : Bool} {offset : BitVec 16} {a : Word}
    (ha : (if s.cpCond z == want then branchAddress s offset else s.npc + 4) = a) :
    BranchesTo s (branchOnCop z want offset s) a := by
  rw [branchOnCop, withCop_of_usable hu]
  exact branchesTo_branchIf hd ha

/-- Settles O39: the four coprocessors share `branchOnCop`. -/
theorem coprocessorBranch : Obligations.CoprocessorBranch := by
  intro s z offset hd hu hfpa hpin c onFalse onTrue
  have hc : s.cpCond z = c := cpCond_of_settled hfpa hpin
  have hfalse : BranchesTo s (branchOnCop z false offset s) onFalse :=
    branchesTo_branchOnCop hd hu (ite_of_iff_not (by rw [hc, beq_iff_eq, Bool.not_eq_true]) _ _)
  have htrue : BranchesTo s (branchOnCop z true offset s) onTrue :=
    branchesTo_branchOnCop hd hu (if_congr (by rw [hc, beq_iff_eq]) rfl rfl)
  refine ⟨?_, ?_, ?_, ?_⟩
  all_goals
    intro hz
    subst hz
    exact ⟨hfalse, htrue⟩

/-! ## The step (R300) -/

theorem runWord_of_ok {w : Word} {i : Instr} (h : decodeWord w = .ok i) (s : State) : runWord w s = exec i s := by
  rw [runWord, h]

/-- Settles O8. -/
theorem stepRunsDecodedInstruction : Obligations.StepRunsDecodedInstruction := by
  intro s w t i hevents hhalted hint hfetch hdecode
  rw [step_of_no_events hevents, cpuStep_of_no_interrupt hhalted hint, hfetch]
  exact runWord_of_ok hdecode t

/-! ## The sequences without a meaning (R301, 45_system_cp0_tlb.md R347) -/

theorem branchTo_of_inDelay {s : State} (h : s.inDelay = true) (taken : Bool) (target : Word) :
    branchTo s taken target = .fault .branchInDelaySlot := if_pos h

/-- The linking branches and jumps stop too: the link does not move out of the slot. -/
theorem branchTo_setGpr_of_inDelay {s : State} (h : s.inDelay = true) (rd : Reg) (v : Word) (taken : Bool)
    (target : Word) : branchTo (s.setGpr rd v) taken target = .fault .branchInDelaySlot :=
  branchTo_of_inDelay (by simpa using h) taken target

theorem readMem_of_tlbp {s : State} (h : s.pipe.prev = .tlbp) (va : Word) (size : Nat) (k : Word → State → Result) :
    readMem va size s k = .fault .memRefAfterTlbp := if_pos h

theorem writeMem_of_tlbp {s : State} (h : s.pipe.prev = .tlbp) (va : Word) (size : Nat) (data : Word) (be : BitVec 4) :
    writeMem va size data be s = .fault .memRefAfterTlbp := if_pos h

/-- Settles O31: every branch and jump ends in `branchTo`, every load in `readMem`, every store in `writeMem`. -/
theorem undefinedSequencesStop : Obligations.UndefinedSequencesStop := by
  intro s rs rt rd base offset target
  refine ⟨fun hd => ?_, fun hp => ?_⟩
  · have stops := branchTo_of_inDelay hd
    have stopsLinking := branchTo_setGpr_of_inDelay hd
    simp only [List.forall_mem_cons]
    exact ⟨stops _ _, stops _ _, stops _ _, stops _ _, stops _ _, stops _ _, stopsLinking _ _ _ _,
      stopsLinking _ _ _ _, stops _ _, stopsLinking _ _ _ _, stops _ _, stopsLinking _ _ _ _,
      List.forall_mem_nil _⟩
  · have loads := readMem_of_tlbp hp
    have stores := writeMem_of_tlbp hp
    simp only [List.forall_mem_cons]
    exact ⟨loads _ _ _, loads _ _ _, loads _ _ _, loads _ _ _, loads _ _ _, loads _ _ _, loads _ _ _,
      stores _ _ _ _, stores _ _ _ _, stores _ _ _ _, stores _ _ _ _, stores _ _ _ _,
      List.forall_mem_nil _⟩

end Sys2Proof.Proofs

/-! Coprocessor 0 from outside: the usability check, what an instruction can change where coprocessor 0 is not usable, and
the traps. -/

namespace Sys2Proof.Proofs

open Sys2Proof.Machine Sys2Proof.Laws

/-! ## The usability check (45_system_cp0_tlb.md R352) -/

theorem withCop_of_not_usable {z : BitVec 2} {s : State} (h : s.usable z = false) (k : Result) :
    withCop z s k = raise (.cpu z) s := by
  unfold withCop
  rw [h]
  rfl

/-! ## Coprocessor 0 from outside (R352, 10_state.md R35, R37) -/

/-- Going from `s` to `t` leaves the TLB alone, and coprocessor 0 but for SR.TS and SR.CM. -/
def LeavesCp0 (s t : State) : Prop := t.tlb = s.tlb ∧ SameCp0 t.cp0 s.cp0

theorem leavesCp0_of_eq {s t : State} (htlb : t.tlb = s.tlb) (hcp0 : t.cp0 = s.cp0) : LeavesCp0 s t :=
  ⟨htlb, by rw [hcp0]; exact ⟨rfl, rfl⟩⟩

theorem LeavesCp0.refl (s : State) : LeavesCp0 s s := leavesCp0_of_eq rfl rfl

theorem LeavesCp0.trans {s t u : State} (h : LeavesCp0 s t) (k : LeavesCp0 t u) : LeavesCp0 s u := by
  obtain ⟨htlb, hcp0, hsr⟩ := h
  obtain ⟨ktlb, kcp0, ksr⟩ := k
  exact ⟨ktlb.trans htlb, kcp0.trans hcp0, ksr.trans hsr⟩

/-- Hardware sets SR.TS (bit 21) and SR.CM (bit 19). -/
theorem leavesCp0_setSrBit (s : State) {k : Nat} (h : (0xFFD7FFFF : Word) &&& (1#32 <<< k) = 0) (b : Bool) :
    LeavesCp0 s (s.updateSr fun sr => setBit sr k b) :=
  ⟨rfl, rfl, setBit_and h s.cp0.sr b⟩

theorem leavesCp0_setCm (s : State) (miss : Bool) : LeavesCp0 s (s.setCm miss) :=
  leavesCp0_setSrBit s (by decide) miss

theorem leavesCp0_shutDown (s : State) : LeavesCp0 s (shutDown s) := leavesCp0_setSrBit s (by decide) true

theorem leavesCp0_load {s t : State} {va w : Word} (h : s.load va = .done w t) : LeavesCp0 s t := by
  rcases load_cases s va with ⟨pa, u, -, hl⟩ | ⟨_, -, hl⟩ | hl | hl <;> rw [hl] at h
  case inl =>
    rcases readData_cases s u pa with ⟨_, hr⟩ | ⟨_, hr⟩ | ⟨_, _, hr⟩ | ⟨_, _, hr⟩ | ⟨_, _, -, hr⟩ | ⟨_, _, -, hr⟩ | hr
      <;> rw [hr] at h <;> cases h
    case inr.inr.inr.inr.inl => exact leavesCp0_setCm s _
    all_goals exact leavesCp0_of_eq (by simp) (by simp)
  all_goals cases h

/-! ### How an instruction ends that does not reach coprocessor 0 -/

/-- If the instruction answers a next state, it has left coprocessor 0 alone, or it has until it enters an exception. -/
def EndsOutsideCp0 (s : State) (r : Result) : Prop :=
  ∀ t, r = .next t → LeavesCp0 s t ∨ ∃ (s' : State) (e : Exc), LeavesCp0 s s' ∧ t = s'.takeException e

section Ends

variable {s t : State}

theorem endsOutsideCp0_next (h : LeavesCp0 s t) : EndsOutsideCp0 s (.next t) := fun _ e => .inl (next_inj e ▸ h)

theorem endsOutsideCp0_done (h : LeavesCp0 s t) : EndsOutsideCp0 s (done t) :=
  endsOutsideCp0_next (h.trans (leavesCp0_of_eq rfl rfl))

theorem endsOutsideCp0_raise (h : LeavesCp0 s t) (e : Exc) : EndsOutsideCp0 s (raise e t) :=
  fun _ he => .inr ⟨t, e, h, (next_inj he).symm⟩

theorem LeavesCp0.ends (h : LeavesCp0 s t) {r : Result} (hr : EndsOutsideCp0 t r) : EndsOutsideCp0 s r :=
  fun u hu => (hr u hu).imp h.trans fun ⟨s', e, hs', he⟩ => ⟨s', e, h.trans hs', he⟩

theorem endsOutsideCp0_withCop {z : BitVec 2} {k : Result} (h : s.usable z = true → EndsOutsideCp0 s k) :
    EndsOutsideCp0 s (withCop z s k) := by
  intro t ht
  rcases withCop_next ht with ⟨hu, hk⟩ | ⟨-, rfl⟩
  · exact h hu t hk
  · exact .inr ⟨s, _, .refl s, rfl⟩

/-- An instruction of coprocessor 0 goes no further than the check. -/
theorem endsOutsideCp0_of_not_usable (h : s.usable 0 = false) (k : Result) : EndsOutsideCp0 s (withCop 0 s k) :=
  endsOutsideCp0_withCop fun hu => by rw [h] at hu; cases hu

theorem endsOutsideCp0_fpOp {k : Result} (h : EndsOutsideCp0 s k) : EndsOutsideCp0 s (fpOp s k) := by
  refine endsOutsideCp0_withCop fun _ => ?_
  split
  · exact h
  · exact endsOutsideCp0_done (.refl s)

theorem endsOutsideCp0_branchTo (h : LeavesCp0 s t) (taken : Bool) (a : Word) : EndsOutsideCp0 s (branchTo t taken a) := by
  intro u hu
  obtain ⟨-, rfl⟩ := branchTo_next hu
  exact .inl (h.trans (leavesCp0_of_eq rfl rfl))

theorem endsOutsideCp0_branchOnCop (z : BitVec 2) (want : Bool) (offset : BitVec 16) (s : State) :
    EndsOutsideCp0 s (branchOnCop z want offset s) :=
  endsOutsideCp0_withCop fun _ => endsOutsideCp0_branchTo (.refl s) _ _

theorem endsOutsideCp0_readMem (va : Word) (size : Nat) {k : Word → State → Result}
    (hk : ∀ w t, EndsOutsideCp0 t (k w t)) : EndsOutsideCp0 s (readMem va size s k) := by
  have hat : LeavesCp0 s (atMemory s) := leavesCp0_of_eq rfl rfl
  intro t ht
  rcases readMem_next ht with ⟨w, s', hl, hend⟩ | ⟨e, s', rfl | rfl, rfl⟩ | rfl
  · exact (hat.trans (leavesCp0_load hl)).ends (hk w s') t hend
  · exact .inr ⟨_, e, hat, rfl⟩
  · exact .inr ⟨(atMemory s).drain, e, hat.trans (leavesCp0_of_eq rfl rfl), rfl⟩
  · exact .inl (hat.trans (leavesCp0_shutDown _))

theorem endsOutsideCp0_writeMem (va : Word) (size : Nat) (d : Word) (be : BitVec 4) (s : State) :
    EndsOutsideCp0 s (writeMem va size d be s) := by
  have hat : LeavesCp0 s (atMemory s) := leavesCp0_of_eq rfl rfl
  intro t ht
  rcases writeMem_next ht with ⟨pa, u, -, rfl⟩ | ⟨e, rfl⟩ | rfl
  · exact .inl (hat.trans (leavesCp0_of_eq (by simp) (by simp)))
  · exact .inr ⟨_, e, hat, rfl⟩
  · exact .inl (hat.trans (leavesCp0_shutDown _))

end Ends

/-! ### The instructions, by the shape they share -/

theorem leavesCp0_setGpr (s : State) (r : Reg) (v : Word) : LeavesCp0 s (s.setGpr r v) :=
  leavesCp0_of_eq (by simp) (by simp)

theorem leavesCp0_setGprLate (s : State) (r : Reg) (v : Word) (isLoad : Bool) : LeavesCp0 s (s.setGprLate r v isLoad) :=
  leavesCp0_of_eq (by simp) (by simp)

theorem endsOutsideCp0_writeReg (rd : Reg) (v : Word) (s : State) : EndsOutsideCp0 s (writeReg rd v s) :=
  endsOutsideCp0_done (leavesCp0_setGpr s rd v)

theorem endsOutsideCp0_writeRegOrOverflow (o : Bool) (rd : Reg) (v : Word) (s : State) :
    EndsOutsideCp0 s (writeRegOrOverflow o rd v s) := by
  unfold writeRegOrOverflow
  split
  · exact endsOutsideCp0_raise (.refl s) _
  · exact endsOutsideCp0_writeReg rd v s

theorem endsOutsideCp0_writeHiLo (hi lo : Word) (s : State) : EndsOutsideCp0 s (writeHiLo hi lo s) := by
  obtain ⟨g, r, h⟩ := reread_eq s (some hi) (some lo)
  exact endsOutsideCp0_done (leavesCp0_of_eq (by rw [h]) (by rw [h]))

theorem endsOutsideCp0_divide (a b : Int) (divisor : Word) (s : State) : EndsOutsideCp0 s (divide a b divisor s) := by
  unfold divide
  split <;> exact endsOutsideCp0_writeHiLo _ _ s

theorem endsOutsideCp0_readHiLo (rd : Reg) (isHi : Bool) (v : Word) (s : State) :
    EndsOutsideCp0 s (readHiLo rd isHi v s) :=
  endsOutsideCp0_done (leavesCp0_of_eq (by simp) (by simp))

theorem endsOutsideCp0_movedTo (toHi : Bool) (v : Word) (s : State) :
    EndsOutsideCp0 s (.next (movedTo toHi v s).advance) := by
  obtain ⟨g, r, h⟩ := movedTo_eq toHi v s
  exact endsOutsideCp0_next (leavesCp0_of_eq (by rw [h]; rfl) (by rw [h]; rfl))

theorem endsOutsideCp0_loadReg (rt : Reg) (va : Word) (size : Nat) (f : Word → Word) (s : State) :
    EndsOutsideCp0 s (loadReg rt va size f s) :=
  endsOutsideCp0_readMem va size fun _ t => endsOutsideCp0_done (leavesCp0_setGprLate t _ _ _)

theorem endsOutsideCp0_moveFromAbsent (z : BitVec 2) (rt : Reg) (s : State) :
    EndsOutsideCp0 s (moveFromAbsent z rt s) :=
  endsOutsideCp0_withCop fun _ => endsOutsideCp0_done (leavesCp0_setGprLate s _ _ _)

theorem endsOutsideCp0_discardToAbsent (z : BitVec 2) (s : State) : EndsOutsideCp0 s (discardToAbsent z s) :=
  endsOutsideCp0_withCop fun _ => endsOutsideCp0_done (.refl s)

theorem endsOutsideCp0_loadToAbsent (z : BitVec 2) (va : Word) (s : State) : EndsOutsideCp0 s (loadToAbsent z va s) :=
  endsOutsideCp0_withCop fun _ => endsOutsideCp0_readMem va 4 fun _ t => endsOutsideCp0_done (.refl t)

theorem leavesCp0_fcr31 (s : State) (f : Word) : LeavesCp0 s { s with fcr31 := f } := leavesCp0_of_eq rfl rfl

theorem leavesCp0_storeFp (s : State) (d : Bool) (fd : Reg) (v : BitVec 64) : LeavesCp0 s (s.storeFp d fd v) :=
  leavesCp0_of_eq (by simp) (by simp)

theorem endsOutsideCp0_fpComplete {s : State} {k : BitVec 64 → State} (h : ∀ v, LeavesCp0 s (k v)) (word : Word)
    (a b : BitVec 64) (o : FpOutcome) : EndsOutsideCp0 s (fpComplete word a b o s k) := by
  intro t ht
  rcases fpComplete_next ht with ⟨f, -, rfl | rfl⟩ | ⟨v, exc, rfl⟩
  · exact .inr ⟨_, _, leavesCp0_fcr31 s f, rfl⟩
  · exact .inl (leavesCp0_of_eq rfl rfl)
  · exact .inl ((h v).trans (leavesCp0_of_eq rfl rfl))

theorem endsOutsideCp0_fpOddSpecifier (fd : Reg) (s : State) : EndsOutsideCp0 s (fpOddSpecifier fd s) :=
  endsOutsideCp0_done (leavesCp0_of_eq rfl rfl)

theorem endsOutsideCp0_fpBinary (d : Bool) (op : FpFormat → BitVec 2 → Bool → Bool → Fp → Fp → FpOutcome) (word : Word)
    (fd fs ft : Reg) (s : State) : EndsOutsideCp0 s (fpBinary d op word fd fs ft s) := by
  refine endsOutsideCp0_fpOp ?_
  split
  · exact endsOutsideCp0_fpComplete (leavesCp0_storeFp s d fd) _ _ _ _
  · exact endsOutsideCp0_fpOddSpecifier fd s

theorem endsOutsideCp0_fpUnary (d d' : Bool) (op : State → BitVec 64 → FpOutcome) (word : Word) (fd fs : Reg)
    (s : State) : EndsOutsideCp0 s (fpUnary d d' op word fd fs s) := by
  refine endsOutsideCp0_fpOp ?_
  split
  · exact endsOutsideCp0_fpComplete (leavesCp0_storeFp s d' fd) _ _ _ _
  · exact endsOutsideCp0_fpOddSpecifier fd s

theorem endsOutsideCp0_fpMove (d : Bool) (fd fs : Reg) (s : State) : EndsOutsideCp0 s (fpMove d fd fs s) := by
  refine endsOutsideCp0_fpOp ?_
  split
  · exact endsOutsideCp0_done (leavesCp0_storeFp s d fd _)
  · exact endsOutsideCp0_fpOddSpecifier fd s

theorem endsOutsideCp0_fpCompare (d : Bool) (cond : BitVec 4) (word : Word) (fs ft : Reg) (s : State) :
    EndsOutsideCp0 s (fpCompare d cond word fs ft s) := by
  have hs : LeavesCp0 s { s with pipe := { s.pipe with condWin := 2 } } := leavesCp0_of_eq rfl rfl
  refine endsOutsideCp0_fpOp ?_
  simp only []
  split
  · exact hs.ends (endsOutsideCp0_fpComplete (fun _ => leavesCp0_fcr31 _ _) _ _ _ _)
  · exact endsOutsideCp0_done (leavesCp0_of_eq rfl rfl)

theorem endsOutsideCp0_execCtc1 (rt fs : Reg) (s : State) : EndsOutsideCp0 s (execCtc1 rt fs s) := by
  refine endsOutsideCp0_fpOp (endsOutsideCp0_done ?_)
  split <;> exact leavesCp0_of_eq rfl rfl

theorem endsOutsideCp0_execLwc1 (ft : Reg) (offset : BitVec 16) (base : Reg) (s : State) :
    EndsOutsideCp0 s (execLwc1 ft offset base s) := by
  refine endsOutsideCp0_withCop fun _ => endsOutsideCp0_readMem _ _ fun w t => endsOutsideCp0_done ?_
  split <;> exact leavesCp0_of_eq rfl rfl

/-! ### Every instruction -/

theorem exec_endsOutsideCp0 (i : Instr) {s : State} (hu : s.usable 0 = false) : EndsOutsideCp0 s (exec i s) := by
  cases i with
  | sll | srl | sra | sllv | srlv | srav | addu | subu | and | or | xor | nor | slt | sltu | addiu | slti | sltiu | andi
  | ori | xori | lui => exact endsOutsideCp0_writeReg _ _ s
  | add | sub | addi => exact endsOutsideCp0_writeRegOrOverflow _ _ _ s
  | mult | multu => exact endsOutsideCp0_writeHiLo _ _ s
  | div | divu => exact endsOutsideCp0_divide _ _ _ s
  | mfhi | mflo => exact endsOutsideCp0_readHiLo _ _ _ s
  | mthi => exact endsOutsideCp0_movedTo true _ s
  | mtlo => exact endsOutsideCp0_movedTo false _ s
  | beq | bne | blez | bgtz | bltz | bgez | j | jr => exact endsOutsideCp0_branchTo (.refl s) _ _
  | bltzal | bgezal | jal | jalr => exact endsOutsideCp0_branchTo (leavesCp0_setGpr s _ _) _ _
  | bc0f | bc0t | bc1f | bc1t | bc2f | bc2t | bc3f | bc3t => exact endsOutsideCp0_branchOnCop _ _ _ s
  | syscall | break_ | lwc0 | swc0 | mfc3 | swc3 => exact endsOutsideCp0_raise (.refl s) _
  | lb | lbu | lh | lhu | lw | lwl | lwr => exact endsOutsideCp0_loadReg _ _ _ _ s
  | sb | sh | sw | swl | swr => exact endsOutsideCp0_writeMem _ _ _ _ s
  | mfc0 | mtc0 | cfc0 | ctc0 | rfe | tlbr | tlbwi | tlbwr | tlbp => exact endsOutsideCp0_of_not_usable hu _
  | mfc2 | cfc2 | cfc3 => exact endsOutsideCp0_moveFromAbsent _ _ s
  | mtc2 | ctc2 | cop2 | mtc3 | ctc3 | cop3 => exact endsOutsideCp0_discardToAbsent _ s
  | lwc2 | lwc3 => exact endsOutsideCp0_loadToAbsent _ _ s
  | swc1 | swc2 => exact endsOutsideCp0_withCop fun _ => endsOutsideCp0_writeMem _ _ _ _ s
  | mfc1 | cfc1 => exact endsOutsideCp0_withCop fun _ => endsOutsideCp0_done (leavesCp0_setGprLate s _ _ _)
  | mtc1 => exact endsOutsideCp0_fpOp (endsOutsideCp0_done (leavesCp0_of_eq rfl rfl))
  | ctc1 => exact endsOutsideCp0_execCtc1 _ _ s
  | lwc1 => exact endsOutsideCp0_execLwc1 _ _ _ s
  | addS | addD | subS | subD | mulS | mulD | divS | divD => exact endsOutsideCp0_fpBinary _ _ _ _ _ _ s
  | absS | absD | negS | negD | cvtSD | cvtSW | cvtDS | cvtDW | cvtWS | cvtWD =>
    exact endsOutsideCp0_fpUnary _ _ _ _ _ _ s
  | movS | movD => exact endsOutsideCp0_fpMove _ _ _ s
  | cFS | cFD | cUnS | cUnD | cEqS | cEqD | cUeqS | cUeqD | cOltS | cOltD | cUltS | cUltD | cOleS | cOleD | cUleS | cUleD
  | cSfS | cSfD | cNgleS | cNgleD | cSeqS | cSeqD | cNglS | cNglD | cLtS | cLtD | cNgeS | cNgeD | cLeS | cLeD | cNgtS
  | cNgtD => exact endsOutsideCp0_fpCompare _ _ _ _ _ s

/-- Entry goes to kernel mode with interrupts disabled (60_exceptions.md R531). -/
theorem pushMode_current (sr : Word) : (pushMode sr).getLsbD 1 = false ∧ (pushMode sr).getLsbD 0 = false := by
  constructor <;> simp [pushMode, mergeBits]

/-- Settles O47: no instruction reaches coprocessor 0 past the check, and entering an exception writes its own part. -/
theorem userCodeCannotChangeCp0 : Obligations.UserCodeCannotChangeCp0 := by
  intro i s t hu ht
  rcases exec_endsOutsideCp0 i hu t ht with ⟨htlb, hcp0⟩ | ⟨s', e, ⟨htlb, hcp0⟩, rfl⟩
  · exact ⟨htlb, .inl hcp0⟩
  · obtain ⟨hmode, henable⟩ := pushMode_current s'.cp0.sr
    exact ⟨htlb, .inr ⟨hmode, henable, s', e, hcp0, rfl⟩⟩

/-! ## The traps (45_system_cp0_tlb.md R330, R331) -/

/-- Settles O42: neither looks at anything before it raises. -/
theorem trapInstructionsRaise : Obligations.TrapInstructionsRaise := fun _ _ => ⟨rfl, rfl⟩

end Sys2Proof.Proofs

/-! The usability check on every instruction of a coprocessor, the ends of the instructions that write coprocessor 0 or
move from it, and `rfe`. -/

namespace Sys2Proof.Proofs

open Sys2Proof.Machine Sys2Proof.Laws

/-! ## The check comes first (45_system_cp0_tlb.md R352, R370, 60_exceptions.md R519) -/

/-- The major opcode is COPz, LWCz or SWCz; LWC0 and SWC0 are reserved (R339). -/
def OpcodeOfCop (z : BitVec 2) (op : BitVec 6) : Prop :=
  op.toNat = 16 + z.toNat ∨ (z ≠ 0 ∧ op.toNat = 48 + z.toNat) ∨ (z ≠ 0 ∧ op.toNat = 56 + z.toNat)

/-- The coprocessor's number is the opcode's two low bits, and the opcode is one of ten. -/
theorem opcodeOfCop_iff {z : BitVec 2} {op : BitVec 6} :
    OpcodeOfCop z op ↔ z = op.extractLsb' 0 2 ∧ op.toNat ∈ [16, 17, 18, 19, 49, 50, 51, 57, 58, 59] := by
  unfold OpcodeOfCop
  revert z op
  decide

/-- Every instruction with a coprocessor's major opcode starts with the check of that coprocessor, but for the words R360
makes reserved. -/
theorem exec_eq_withCop {i : Instr} {z : BitVec 2} (hop : OpcodeOfCop z (opOf (encode i)))
    (hmfc3 : ∀ rt rd, i ≠ .mfc3 rt rd) (hswc3 : ∀ rt offset base, i ≠ .swc3 rt offset base) (s : State) :
    ∃ k, exec i s = withCop z s k := by
  rw [opcodeOfCop_iff] at hop
  obtain ⟨rfl, hop⟩ := hop
  cases i with
  | mfc3 rt rd => exact absurd rfl (hmfc3 rt rd)
  | swc3 rt offset base => exact absurd rfl (hswc3 rt offset base)
  | mfc0 | mtc0 | cfc0 | ctc0 | tlbr | tlbwi | tlbwr | tlbp | rfe | mfc1 | cfc1 | mtc1 | ctc1 | mfc2 | cfc2 | mtc2 | ctc2
  | cfc3 | mtc3 | ctc3 | addS | addD | subS | subD | mulS | mulD | divS | divD | absS | absD | negS | negD | movS | movD
  | cvtSD | cvtSW | cvtDS | cvtDW | cvtWS | cvtWD | cFS | cFD | cUnS | cUnD | cEqS | cEqD | cUeqS | cUeqD | cOltS | cOltD
  | cUltS | cUltD | cOleS | cOleD | cUleS | cUleD | cSfS | cSfD | cNgleS | cNgleD | cSeqS | cSeqD | cNglS | cNglD | cLtS
  | cLtD | cNgeS | cNgeD | cLeS | cLeD | cNgtS | cNgtD =>
    rw [encode, opOf_rType]
    exact ⟨_, rfl⟩
  | bc0f | bc0t | bc1f | bc1t | bc2f | bc2t | bc3f | bc3t | lwc1 | swc1 | lwc2 | lwc3 | swc2 =>
    rw [encode, opOf_iType]
    exact ⟨_, rfl⟩
  | cop2 | cop3 =>
    rw [encode, opOf_copType]
    exact ⟨_, rfl⟩
  | _ => -- the other major opcodes are no coprocessor's
    simp only [encode, opOf_rType, opOf_iType, opOf_jType, opOf_codeType] at hop
    exact absurd hop (by decide)

theorem usable_of_no_recent {s : State} (h : NoRecentMtc0 s) :
    s.usable 0 = (!s.cp0.sr.getLsbD 1 || s.cp0.sr.getLsbD 28) ∧ s.usable 1 = s.cp0.sr.getLsbD 29 ∧
      s.usable 2 = s.cp0.sr.getLsbD 30 ∧ s.usable 3 = s.cp0.sr.getLsbD 31 := by
  simp [State.usable, State.userMode, srBit_nil h]

/-- Settles O46. -/
theorem coprocessorUnusable : Obligations.CoprocessorUnusable := by
  refine ⟨fun i s z hu hop hmfc3 hswc3 => ?_, fun s => usable_of_no_recent⟩
  obtain ⟨k, hk⟩ := exec_eq_withCop hop hmfc3 hswc3 s
  rw [hk]
  exact withCop_of_not_usable hu k

/-! ## Ends that write coprocessor 0 or move from it -/

theorem writesCp0AndHolds_done (s : State) (c : Cp0) (held : List HeldPage) (late : List Cp0Late) :
    WritesCp0AndHolds s (done { s with cp0 := c, utlb := held, pipe := { s.pipe with late := late } }) c held :=
  ⟨_, rfl, rfl, fun _ => rfl, fun _ => rfl, rfl⟩

theorem setGprLate_eq (s : State) (rt : Reg) (v : Word) (isLoad : Bool) :
    s.setGprLate rt v isLoad = { s with
      gpr := (s.setGpr rt v).gpr
      pipe := { s.pipe with gprLate := if rt = 0 then s.pipe.gprLate else some ⟨rt, s.gprAt rt, isLoad⟩ } } := by
  unfold State.setGprLate
  split
  · rename_i h; subst h; rfl
  · rw [setGpr_eq]

theorem movesToGprWith_done (s : State) (c : Cp0) (rt : Reg) (v : Word) :
    MovesToGprWith s (done (({ s with cp0 := c } : State).setGprLate rt v false)) rt v c := by
  rw [setGprLate_eq]
  exact ⟨_, rfl, gprAt_setGpr_self { s with cp0 := c } rt v, fun _ hq => gprAt_setGpr_of_ne { s with cp0 := c } hq v,
    fun _ => rfl, rfl⟩

theorem movesToGpr_done (s : State) (rt : Reg) (v : Word) : MovesToGpr s (done (s.setGprLate rt v false)) rt v :=
  movesToGprWith_done s s.cp0 rt v

/-! ## The mode stack (R341, 60_exceptions.md R531) -/

/-- A merge under a mask of the high bits is the two parts put together. -/
theorem mergeBits_high {m n : Nat} (h : m + n = 32) (keep other : Word) :
    mergeBits (BitVec.allOnes 32 <<< n) keep other = (keep.extractLsb' n m ++ other.extractLsb' 0 n).cast h := by
  apply BitVec.eq_of_getLsbD_eq
  intro i hi
  rw [mergeBits_getLsbD _ _ _ hi, BitVec.getLsbD_shiftLeft, BitVec.getLsbD_allOnes, BitVec.getLsbD_cast,
    BitVec.getLsbD_append]
  by_cases hlow : i < n
  · simp [hlow]
  · simp [hlow, hi, show i - n < 32 by omega, show i - n < m by omega, show n + (i - n) = i by omega]

theorem popMode_eq (sr : Word) : popMode sr = sr.extractLsb' 4 28 ++ sr.extractLsb' 2 4 := by
  have hlow : (sr >>> 2).extractLsb' 0 4 = sr.extractLsb' 2 4 := by ext i; simp
  rw [← hlow]
  exact mergeBits_high (m := 28) (n := 4) rfl sr (sr >>> 2)

/-- The pop undoes the push: the current and previous pairs come back, and the rest above the stack is untouched. -/
theorem popMode_pushMode (sr : Word) :
    (popMode (pushMode sr)).extractLsb' 0 4 = sr.extractLsb' 0 4 ∧
      (popMode (pushMode sr)).extractLsb' 6 26 = sr.extractLsb' 6 26 := by
  constructor <;>
  · apply BitVec.eq_of_getLsbD_eq
    intro i hi
    interval_cases i <;> simp [popMode, pushMode, mergeBits]

theorem userMode_of_no_recent {s : State} (h : NoRecentMtc0 s) : s.userMode = s.cp0.sr.getLsbD 1 := srBit_nil h 3 1

/-- `rfe` makes the previous mode the current one. -/
theorem returnFromException_userMode {s : State} (h : NoRecentMtc0 s) :
    s.returnFromException.userMode = s.cp0.sr.getLsbD 3 := by
  have hlate : NoRecentMtc0 s.returnFromException := by
    show s.pipe.late.map _ = []
    rw [h, List.map_nil]
  rw [userMode_of_no_recent hlate]
  show (popMode s.cp0.sr).getLsbD 1 = _
  simp [popMode, mergeBits]

theorem exec_rfe {s : State} (hu : s.usable 0 = true) :
    exec .rfe s = if s.pipe.prev = .memory ∧ s.returnFromException.userMode ≠ s.userMode
      then .fault .memRefBeforeRfe else done s.returnFromException := withCop_of_usable hu _

/-- Settles O43. -/
theorem returnFromException : Obligations.ReturnFromException := by
  refine ⟨fun s hu hl => ?_, fun s e => popMode_pushMode s.cp0.sr⟩
  rw [exec_rfe hu, returnFromException_userMode hl, userMode_of_no_recent hl, ← popMode_eq]
  refine ⟨fun hsafe => ?_, fun hprev hmode => if_pos ⟨hprev, Ne.symm hmode⟩⟩
  rw [if_neg fun ⟨hprev, hmode⟩ => hsafe.elim (· hprev) (hmode ·.symm)]
  exact writesCp0AndHolds_done s { s.cp0 with sr := popMode s.cp0.sr } s.utlb _

end Sys2Proof.Proofs

/-! The moves of coprocessor 0: the registers that run with the clock, `mfc0` and `mtc0` register by register. -/

namespace Sys2Proof.Proofs

open Sys2Proof.Machine Sys2Proof.Laws

/-! ## Which member has which registers (00_scope.md R2, 10_state.md R26) -/

theorem not_is3041_of_hasMmu {c : Config} (hwf : c.wf = true) (h : c.hasMmu = true) : c.is3041 = false := by
  simp only [Config.wf, h, Bool.and_eq_true, Bool.or_eq_true, bne_iff_ne] at hwf
  simpa [Config.is3041] using hwf.1.1

theorem not_hasMmu_of_is3041 {c : Config} (hwf : c.wf = true) (h : c.is3041 = true) : c.hasMmu = false := by
  cases hmmu : c.hasMmu
  · rfl
  · rw [not_is3041_of_hasMmu hwf hmmu] at h
    cases h

theorem not_is3041_of_hasConfig7181 {c : Config} (h : c.hasConfig7181 = true) : c.is3041 = false := by
  unfold Config.hasConfig7181 at h
  unfold Config.is3041
  cases hm : c.member <;> simp [hm] at h ⊢

/-! ## Random (10_state.md R68) -/

theorem tickRandom_random (s : State) : 8 ≤ s.tickRandom.cp0.random.toNat := by
  show 8 ≤ (BitVec.ofNat 6 (8 + (s.free .random).toNat % 56)).toNat
  have hlt : (s.free .random).toNat % 56 < 56 := Nat.mod_lt _ (by decide)
  rw [BitVec.toNat_ofNat, Nat.mod_eq_of_lt (by omega)]
  omega

/-! ## The R3041's timer (10_state.md R53, R55) -/

/-- Going round a cycle of `m + 1` values. -/
theorem add_one_mod_cycle (n m : Nat) : (n + 1) % (m + 1) = if n % (m + 1) = m then 0 else n % (m + 1) + 1 := by
  have hlt : n % (m + 1) < m + 1 := Nat.mod_lt _ (Nat.succ_pos m)
  rw [← Nat.mod_add_mod]
  split
  · rename_i h
    rw [h, Nat.mod_self]
  · exact Nat.mod_eq_of_lt (by omega)

/-- One clock more: Count goes on, from Compare to zero and from the top of 24 bits to zero; the wrap is noted. -/
theorem countAfter_succ {c m : Nat} (hc : c < 2 ^ 24) (hm : m < 2 ^ 24) (k : Nat) :
    countAfter c m (k + 1) =
      (if (countAfter c m k).1 = m then 0 else ((countAfter c m k).1 + 1) % 2 ^ 24,
        (countAfter c m k).2 || decide ((countAfter c m k).1 = m)) := by
  have cycle (n : Nat) : ((n + 1) % (m + 1), decide (m < n + 1)) =
      (if n % (m + 1) = m then 0 else (n % (m + 1) + 1) % 2 ^ 24, decide (m < n) || decide (n % (m + 1) = m)) := by
    have hlt : n % (m + 1) < m + 1 := Nat.mod_lt _ (Nat.succ_pos m)
    rw [add_one_mod_cycle]
    refine Prod.ext ?_ ?_
    · split
      · rfl
      · exact (Nat.mod_eq_of_lt (by omega)).symm
    · by_cases hn : n ≤ m
      · rw [Nat.mod_eq_of_lt (by omega)]
        simp only [← Bool.decide_or]
        exact decide_eq_decide.mpr (by omega)
      · simp [show m < n by omega, show m < n + 1 by omega]
  unfold countAfter
  by_cases hle : c ≤ m
  · simp only [hle, if_true]
    exact cycle (c + k)
  · simp only [hle, if_false]
    by_cases htop : c + k + 1 < 2 ^ 24
    · rw [if_pos (show c + (k + 1) < 2 ^ 24 by omega), if_pos (show c + k < 2 ^ 24 by omega)]
      simp only [show ¬ c + k = m by omega, if_false, decide_false, Bool.or_false, Nat.mod_eq_of_lt htop]
      rfl
    · rw [if_neg (show ¬ c + (k + 1) < 2 ^ 24 by omega)]
      by_cases hlast : c + k < 2 ^ 24
      · rw [if_pos hlast]
        rw [show c + (k + 1) - 2 ^ 24 = 0 by omega, if_neg (show ¬ c + k = m by omega),
          show c + k + 1 = 2 ^ 24 by omega, Nat.zero_mod, Nat.mod_self, decide_eq_false (Nat.not_lt_zero m),
          decide_eq_false (show ¬ c + k = m by omega)]
        rfl
      · rw [if_neg hlast, show c + (k + 1) - 2 ^ 24 = c + k - 2 ^ 24 + 1 by omega]
        generalize c + k - 2 ^ 24 = n
        exact cycle n

theorem countClock_toNat (m c : BitVec 24) :
    (countClock m c).toNat = if c.toNat = m.toNat then 0 else (c.toNat + 1) % 2 ^ 24 := by
  unfold countClock
  simp only [BitVec.toNat_inj]
  split
  · rfl
  · exact BitVec.toNat_add c 1

/-- The model's closed form of Count after `k` clocks is `k` single clocks. -/
theorem countAfter_eq_iterate (c m : BitVec 24) (k : Nat) :
    (countAfter c.toNat m.toNat k).1 = ((countClock m)^[k] c).toNat ∧
      ((countAfter c.toNat m.toNat k).2 = true ↔ ∃ j, j < k ∧ (countClock m)^[j] c = m) := by
  induction k with
  | zero =>
    have hc := c.isLt
    unfold countAfter
    split
    · rename_i hle
      refine ⟨Nat.mod_eq_of_lt (by omega), ?_⟩
      simpa using hle
    · rw [if_pos (by omega)]
      simp
  | succ k ih =>
    obtain ⟨hcount, hwrap⟩ := ih
    rw [countAfter_succ c.isLt m.isLt, hcount, Function.iterate_succ_apply']
    refine ⟨(countClock_toNat m _).symm, ?_⟩
    simp only [BitVec.toNat_inj, Bool.or_eq_true, hwrap, decide_eq_true_eq, Nat.lt_succ_iff_lt_or_eq, or_and_right,
      exists_or, exists_eq_left]

/-- With no recent `mtc0` the timer runs some clocks and nothing else changes. -/
theorem tickCount_of_no_recent {s : State} (h : NoRecentMtc0 s) (u : ClockUse) :
    s.tickCount u = { s with cp0 := (s.tickCount u).cp0 } := by
  have hlate (f : Cp0Late → Cp0Late) : s.pipe.late.map f = s.pipe.late := by rw [h]; rfl
  unfold State.tickCount
  simp only [hlate]

theorem tickCount_timerRuns {s : State} (h : NoRecentMtc0 s) (u : ClockUse) :
    TimerRuns s.cp0 (s.tickCount u).cp0 := by
  have hcompare : s.compareView = s.cp0.compare := by
    unfold State.compareView
    rw [cp0View_nil h]
    exact BitVec.setWidth_setWidth_of_le _ (by decide)
  obtain ⟨hcount, hwrap⟩ := countAfter_eq_iterate s.cp0.count s.cp0.compare (Config.clocks u s.draws)
  refine ⟨Config.clocks u s.draws, ?_, ?_⟩
  · unfold State.tickCount
    simp only [hcompare, hcount, BitVec.ofNat_toNat, BitVec.setWidth_eq]
  · show (s.cp0.tcOut || ((countAfter _ s.compareView.toNat _).2 && (s.cp0View 2 3 s.cp0.busCtrl).getLsbD 14)) = true ↔ _
    rw [hcompare, cp0View_nil h, Bool.or_eq_true, Bool.and_eq_true, hwrap, and_comm]

/-! ## Bringing the clock-driven registers up to date -/

/-- A register number that names no clock-driven register of the member brings nothing up to date. -/
theorem tick_of_not_clocked {s : State} {n : Reg} (hrandom : n.toNat = 1 → s.cfg.hasMmu = false)
    (htimer : n.toNat ∈ [2, 9, 11] → s.cfg.is3041 = false) : s.tick n = s := by
  unfold State.tick
  split <;> simp_all

theorem tick_of_noCp0Register {s : State} {n : Reg} (h : NoCp0Register s.cfg n) : s.tick n = s := by
  unfold NoCp0Register at h
  refine tick_of_not_clocked (fun hn => ?_) (fun hn => ?_)
  · simpa [hn] using h
  · simp only [List.mem_cons, List.not_mem_nil, or_false] at hn
    rcases hn with hn | hn | hn <;> simp [hn] at h
    · exact h.2
    all_goals exact h

theorem tick_of_timer {s : State} {n : Reg} (h : s.cfg.is3041 = true) (hn : n.toNat ∈ [2, 9, 11]) :
    s.tick n = s.tickCount .access := by
  simp only [List.mem_cons, List.not_mem_nil, or_false] at hn
  unfold State.tick
  rcases hn with hn | hn | hn <;> simp [hn, h]

theorem tick_of_random {s : State} (h : s.cfg.hasMmu = true) : s.tick 1 = s.tickRandom := if_pos h

/-! ## `mfc0` (45_system_cp0_tlb.md R336) -/

theorem exec_mfc0 {s : State} (hu : s.usable 0 = true) (rt n : Reg) :
    exec (.mfc0 rt n) s = done ((s.tick n).setGprLate rt ((s.tick n).cp0Read n) false) := withCop_of_usable hu _

/-- With no recent `mtc0` the word read is the one stored, but for Random's and Cause's own bits. -/
theorem cp0Read_of_no_recent {s : State} (h : NoRecentMtc0 s) {n : Reg} (hrandom : n.toNat ≠ 1)
    (hcause : n.toNat ≠ 13) : s.cp0Read n = s.cp0Stored n := by
  unfold State.cp0Read
  rw [cp0ReadBack_nil h]
  split
  · contradiction
  · contradiction
  · rfl

theorem cp0Read_cause {s : State} (h : NoRecentMtc0 s) : s.cp0Read 13 = s.cp0.cause ||| s.ipBits :=
  congrArg (· ||| s.ipBits) (cp0ReadBack_nil h 13 s.cp0.cause)

theorem cp0Read_random {s : State} (h : NoRecentMtc0 s) (hmmu : s.cfg.hasMmu = true) :
    (s.cp0Read 1).extractLsb' 8 6 = s.cp0.random := by
  have hread : s.cp0Read 1 = mergeBits 0x3F00 (s.cp0.random.setWidth 32 <<< 8) (s.free .reservedRead) := by
    unfold State.cp0Read State.cp0Stored
    simp [cp0ReadBack_nil h, hmmu]
  rw [hread]
  apply BitVec.eq_of_getLsbD_eq
  intro i hi
  rw [BitVec.getLsbD_extractLsb', mergeBits_getLsbD _ _ _ (by omega)]
  interval_cases i <;> simp

/-- `mfc0` of a register that does not run with the clock. -/
theorem mfc0_moves {s : State} (hu : s.usable 0 = true) (rt : Reg) {n : Reg} {v : Word} (htick : s.tick n = s)
    (hv : s.cp0Read n = v) : MovesToGpr s (exec (.mfc0 rt n) s) rt v := by
  rw [exec_mfc0 hu, htick, hv]
  exact movesToGpr_done s rt v

/-- `mfc0` of a register of the R3041's timer: the timer runs first. -/
theorem mfc0_moves_timer {s : State} (hu : s.usable 0 = true) (hl : NoRecentMtc0 s) (h : s.cfg.is3041 = true) (rt : Reg)
    {n : Reg} (hn : n.toNat ∈ [2, 9, 11]) :
    MovesToGprWith s (exec (.mfc0 rt n) s) rt ((s.tickCount .access).cp0Stored n) (s.tickCount .access).cp0 := by
  have hread : (s.tickCount .access).cp0Read n = (s.tickCount .access).cp0Stored n := by
    refine cp0Read_of_no_recent ?_ ?_ ?_
    · rw [NoRecentMtc0, tickCount_of_no_recent hl]
      exact hl
    all_goals
      rintro h1
      simp [h1] at hn
  rw [exec_mfc0 hu, tick_of_timer h hn, hread]
  rw [tickCount_of_no_recent hl]
  exact movesToGprWith_done s _ rt _

/-- Settles O44. -/
theorem moveFromCp0 : Obligations.MoveFromCp0 := by
  intro s rt hu hl hwf
  have plain {n : Reg} {v : Word} (htick : s.tick n = s) (h1 : n.toNat ≠ 1) (h13 : n.toNat ≠ 13)
      (hv : s.cp0Stored n = v) : MovesToGpr s (exec (.mfc0 rt n) s) rt v :=
    mfc0_moves hu rt htick ((cp0Read_of_no_recent hl h1 h13).trans hv)
  refine ⟨plain rfl (by decide) (by decide) rfl, plain rfl (by decide) (by decide) rfl,
    mfc0_moves hu rt rfl (cp0Read_cause hl), plain rfl (by decide) (by decide) rfl,
    plain rfl (by decide) (by decide) rfl, fun hmmu => ?_, fun hconfig => ?_, fun h3041 => ?_, fun hmmu hrt => ?_,
    fun h3041 => ?_, fun n hn => ⟨_, mfc0_moves hu rt (tick_of_noCp0Register hn) rfl⟩⟩
  · have h3041 := not_is3041_of_hasMmu hwf hmmu
    exact ⟨plain rfl (by decide) (by decide) (if_pos hmmu),
      plain (tick_of_not_clocked (fun h => by cases h) fun _ => h3041) (by decide) (by decide) (if_pos hmmu),
      plain rfl (by decide) (by decide) (if_pos hmmu), plain rfl (by decide) (by decide) (if_pos hmmu)⟩
  · exact plain rfl (by decide) (by decide) (if_pos (by simpa using hconfig))
  · exact plain rfl (by decide) (by decide)
      ((if_neg (by simp [not_hasMmu_of_is3041 hwf h3041])).trans (if_pos h3041))
  · obtain ⟨t, ht, hvalue, hother, hmem, hframe⟩ :=
      movesToGprWith_done s s.tickRandom.cp0 rt (s.tickRandom.cp0Read 1)
    have hc : t.cp0 = s.tickRandom.cp0 := by rw [hframe]
    have hfield : (t.gprAt rt).extractLsb' 8 6 = t.cp0.random := by
      rw [hvalue, if_neg hrt, hc]
      exact cp0Read_random (s := s.tickRandom) hl hmmu
    refine ⟨t, ?_, ?_, hfield, hother, hmem, ?_⟩
    · rw [exec_mfc0 hu, tick_of_random hmmu]
      exact ht
    · rw [hfield, hc]
      exact tickRandom_random s
    · rw [hc]
      rfl
  · have hmmu := not_hasMmu_of_is3041 hwf h3041
    have timer {n : Reg} {v : Word} (hn : n.toNat ∈ [2, 9, 11]) (hv : (s.tickCount .access).cp0Stored n = v) :
        MovesToGprWith s (exec (.mfc0 rt n) s) rt v (s.tickCount .access).cp0 := hv ▸ mfc0_moves_timer hu hl h3041 rt hn
    have hruns := tickCount_timerRuns hl .access
    exact ⟨⟨_, hruns, timer (by decide) ((if_pos h3041).trans (BitVec.setWidth_eq_append (by decide)))⟩,
      ⟨_, hruns, timer (by decide) ((if_pos h3041).trans (BitVec.setWidth_eq_append (by decide)))⟩,
      ⟨_, hruns, timer (by decide) ((if_neg (by simp [hmmu])).trans (if_pos h3041))⟩⟩

/-! ## `mtc0` (45_system_cp0_tlb.md R337) -/

/-- A field whose bits the mask selects is the kept word's. -/
theorem mergeBits_extractLsb' {mask : Word} {lo n : Nat} (hin : lo + n ≤ 32)
    (hmask : ∀ i, i < n → mask.getLsbD (lo + i) = true) (keep other : Word) :
    (mergeBits mask keep other).extractLsb' lo n = keep.extractLsb' lo n := by
  apply BitVec.eq_of_getLsbD_eq
  intro i hi
  rw [BitVec.getLsbD_extractLsb', BitVec.getLsbD_extractLsb', mergeBits_getLsbD _ _ _ (by omega), hmask i hi, if_pos rfl]

/-- The fields of SR (10_state.md R44, the spec's decision D13). -/
theorem srWrite_fields (old v : Word) :
    srWrite old v &&& 0xF247FF3F = v &&& 0xF247FF3F ∧ (srWrite old v).getLsbD 21 = old.getLsbD 21 ∧
      (srWrite old v).getLsbD 19 = old.getLsbD 19 ∧
      (srWrite old v).getLsbD 20 = (old.getLsbD 20 && !v.getLsbD 20) := by
  unfold srWrite
  refine ⟨?_, ?_, ?_, ?_⟩
  · rw [mergeBits_and]
    simp
  all_goals
    rw [mergeBits_getLsbD _ _ _ (by decide)]
    cases h : v.getLsbD 20 <;> simp

/-- The fields of Config on the R3071 and R3081 (10_state.md R56-R61). -/
theorem config7181Write_fields (s : State) (v : Word) :
    s.config7181Write v &&& 0xE3800000 = v &&& 0xE3800000 ∧
      (s.cfg.hasFpa = true → (s.config7181Write v).extractLsb' 26 3 = v.extractLsb' 26 3) := by
  unfold State.config7181Write
  refine ⟨?_, fun h => ?_⟩
  · rw [mergeBits_and]
    split <;> simp
  · rw [if_pos h]
    exact mergeBits_extractLsb' (by decide) (by decide) v _

/-- Each arm of the write asks for the member that has the register (the spec's decision D11). -/
theorem cp0Write_of_noCp0Register {s : State} {n : Reg} (h : NoCp0Register s.cfg n) (v : Word) :
    s.cp0Write n v = s.cp0 := by
  unfold State.cp0Write
  simp only []
  split <;> simp_all [NoCp0Register]

theorem exec_mtc0 {s : State} (hu : s.usable 0 = true) (rt n : Reg) :
    exec (.mtc0 rt n) s = done (s.moveToCp0 n (s.src rt)) := withCop_of_usable hu _

/-- `mtc0` once the clock-driven register of its number, if any, has come to `d`. -/
theorem mtc0_writes {s : State} (hu : s.usable 0 = true) (rt : Reg) {n : Reg} {c d : Cp0}
    (htick : s.tick n = { s with cp0 := d }) (hc : ({ s with cp0 := d } : State).cp0Write n (s.src rt) = c) :
    WritesCp0AndHolds s (exec (.mtc0 rt n) s) c (if n = 10 ∧ s.cfg.hasMmu then [] else s.utlb) := by
  subst hc
  rw [exec_mtc0 hu]
  unfold State.moveToCp0
  simp only [htick]
  split
  · exact writesCp0AndHolds_done s _ [] _
  · exact writesCp0AndHolds_done s _ s.utlb _

theorem mtc0_writesCp0 {s : State} (hu : s.usable 0 = true) (rt : Reg) {n : Reg} {c d : Cp0}
    (htick : s.tick n = { s with cp0 := d }) (hn : n = 10 → s.cfg.hasMmu = false)
    (hc : ({ s with cp0 := d } : State).cp0Write n (s.src rt) = c) : WritesCp0 s (exec (.mtc0 rt n) s) c := by
  have h := mtc0_writes hu rt htick hc
  rwa [if_neg (by rintro ⟨h10, hmmu⟩; simp [hn h10] at hmmu)] at h

theorem locked_of_no_recent {s : State} (h : NoRecentMtc0 s) (n : Reg) (cur : Word) : s.locked n cur = cur.getLsbD 31 := by
  rw [State.locked, cp0View_nil h]

theorem tcLevel_of_no_recent {s : State} (h : NoRecentMtc0 s) : s.tcLevel = s.cp0.busCtrl.getLsbD 14 := by
  rw [State.tcLevel, cp0View_nil h]

theorem cp0Write_config3041 {s : State} (hl : NoRecentMtc0 s) (h3041 : s.cfg.is3041 = true)
    (hopen : s.cp0.config.getLsbD 31 = false) (v : Word) :
    s.cp0Write 3 v = { s.cp0 with config := (v &&& 0xA0080000) ||| 0x40000000 } := by
  show (if s.locked 3 s.cp0.config then _ else if s.cfg.is3041 then _ else _) = _
  rw [locked_of_no_recent hl, hopen, h3041]
  rfl

theorem cp0Write_config7181 {s : State} (hl : NoRecentMtc0 s) (h : s.cfg.hasConfig7181 = true)
    (hopen : s.cp0.config.getLsbD 31 = false) (v : Word) :
    s.cp0Write 3 v = { s.cp0 with config := s.config7181Write v } := by
  show (if s.locked 3 s.cp0.config then _ else if s.cfg.is3041 then _ else if s.cfg.hasConfig7181 then _ else _) = _
  rw [locked_of_no_recent hl, hopen, not_is3041_of_hasConfig7181 h, h]
  rfl

theorem cp0Write_busCtrl {s : State} (hl : NoRecentMtc0 s) (hmmu : s.cfg.hasMmu = false) (h3041 : s.cfg.is3041 = true)
    (v : Word) : s.cp0Write 2 v = if s.cp0.busCtrl.getLsbD 31 then s.cp0 else { s.cp0 with busCtrl := v } := by
  show (if s.cfg.hasMmu then _ else if s.cfg.is3041 && !s.locked 2 s.cp0.busCtrl then _ else _) = _
  rw [locked_of_no_recent hl, hmmu, h3041]
  cases s.cp0.busCtrl.getLsbD 31 <;> rfl

/-- Settles O45. -/
theorem moveToCp0 : Obligations.MoveToCp0 := by
  intro s rt hu hl hwf v c
  have plain {n : Reg} {c' : Cp0} (htick : s.tick n = s) (hn : n ≠ 10) (hc : s.cp0Write n v = c') :
      WritesCp0 s (exec (.mtc0 rt n) s) c' := mtc0_writesCp0 (d := s.cp0) hu rt htick (absurd · hn) hc
  refine ⟨?sr, plain rfl (by decide) ?cause, plain rfl (by decide) rfl, fun hmmu => ?mmu,
    ⟨_, plain rfl (by decide) rfl⟩, ⟨_, plain rfl (by decide) rfl⟩, fun n hn => ?absent,
    fun _ hlocked => plain rfl (by decide) (if_pos ((locked_of_no_recent hl 3 _).trans hlocked)), fun h7181 hopen => ?config,
    fun h3041 => ?r3041⟩
  case sr =>
    obtain ⟨hfields, hts, hcm, hpe⟩ := srWrite_fields c.sr v
    exact ⟨srWrite c.sr v, plain rfl (by decide) rfl, hfields, hts, hcm, hpe, srWrite_reserved _ _⟩
  case cause =>
    show { c with cause := mergeBits 0x300 v c.cause } = _
    rw [mergeBits, BitVec.or_comm]
    rfl
  case mmu =>
    have h3041 := not_is3041_of_hasMmu hwf hmmu
    have hcontext : mergeBits 0xFFE00000 v c.context = v.extractLsb' 21 11 ++ c.context.extractLsb' 0 21 :=
      mergeBits_high (m := 11) (n := 21) rfl v c.context
    refine ⟨plain (tick_of_not_clocked (fun h => by cases h) fun _ => h3041) (by decide) (if_pos hmmu),
      plain rfl (by decide) ((if_pos hmmu).trans (by rw [hcontext])), ?entryHi, ?random,
      _, plain rfl (by decide) (if_pos hmmu), mergeBits_extractLsb' (by decide) (by decide) v _⟩
    case entryHi =>
      have h := mtc0_writes (d := s.cp0) hu rt (n := 10) rfl (if_pos hmmu)
      rwa [if_pos ⟨rfl, hmmu⟩] at h
    case random =>
      exact ⟨_, tickRandom_random s, mtc0_writesCp0 hu rt (tick_of_random hmmu) nofun rfl⟩
  case absent =>
    refine mtc0_writesCp0 (d := s.cp0) hu rt (tick_of_noCp0Register hn) (fun h => ?_) (cp0Write_of_noCp0Register hn v)
    subst h
    unfold NoCp0Register at hn
    simp at hn
    exact hn.1
  case config =>
    obtain ⟨hfields, hfpint⟩ := config7181Write_fields s v
    exact ⟨_, plain rfl (by decide) (cp0Write_config7181 hl h7181 hopen v), hfields, hfpint⟩
  case r3041 =>
    have hmmu := not_hasMmu_of_is3041 hwf h3041
    have hruns := tickCount_timerRuns hl .access
    have timer {n : Reg} {c' : Cp0} (hn : n.toNat ∈ [2, 9, 11])
        (hc : ({ s with cp0 := (s.tickCount .access).cp0 } : State).cp0Write n v = c') :
        WritesCp0 s (exec (.mtc0 rt n) s) c' :=
      mtc0_writesCp0 hu rt ((tick_of_timer h3041 hn).trans (tickCount_of_no_recent hl _)) (fun _ => hmmu) hc
    refine ⟨mtc0_writesCp0 (d := s.cp0) hu rt rfl (fun _ => hmmu) ((if_neg (by simp [hmmu])).trans (if_pos h3041)),
      fun hopen => plain rfl (by decide) (cp0Write_config3041 hl h3041 hopen v),
      ⟨_, hruns, timer (by decide) (if_pos h3041)⟩, ⟨_, _, hruns, fun hlevel => ?_, timer (by decide) (if_pos h3041)⟩,
      _, hruns, timer (by decide) (cp0Write_busCtrl (s := { s with cp0 := (s.tickCount .access).cp0 }) hl hmmu h3041 v)⟩
    have htc : ({ s with cp0 := (s.tickCount .access).cp0 } : State).tcLevel = true :=
      (tcLevel_of_no_recent hl).trans hlevel
    rw [htc]
    exact Bool.and_false _

end Sys2Proof.Proofs

/-! The TLB instructions: what they read and write with the TLB, and that without one the machine goes on. -/

namespace Sys2Proof.Proofs

open Sys2Proof.Machine Sys2Proof.Laws

/-! ## `tlbr`, `tlbwi`, `tlbwr` (45_system_cp0_tlb.md R344-R346) -/

theorem tlbOp_of_hasMmu {s : State} (hu : s.usable 0 = true) (h : s.cfg.hasMmu = true) (k : State) :
    tlbOp s k = done k := by
  rw [tlbOp, withCop_of_usable hu, if_pos h]

theorem tlbOp_of_not_hasMmu {s : State} (hu : s.usable 0 = true) (h : s.cfg.hasMmu = false) (k : State) :
    tlbOp s k = done s.tlbUndefined := by
  rw [tlbOp, withCop_of_usable hu, if_neg (by simp [h])]

theorem indexView_of_no_recent {s : State} (h : NoRecentMtc0 s) : s.indexView = s.cp0.index.extractLsb' 8 6 := by
  rw [State.indexView, cp0View_nil h]

theorem entryView_of_no_recent {s : State} (h : NoRecentMtc0 s) : s.entryView = ⟨s.cp0.entryHi, s.cp0.entryLo⟩ := by
  rw [State.entryView, cp0View_nil h, cp0View_nil h]

/-- Without a TLB the four instructions go on, with Index, EntryHi and EntryLo open (R349, log entry 46). -/
theorem tlbInstruction_without_tlb {s : State} (hu : s.usable 0 = true) (h : s.cfg.hasMmu = false) :
    ∀ i ∈ [Instr.tlbr, .tlbwi, .tlbwr, .tlbp],
      ∃ t, exec i s = .next t ∧ t.gpr = s.gpr ∧ t.mem = s.mem ∧ t.cp0.sr = s.cp0.sr ∧ t.pc = s.npc := by
  have op (k : State) : ∃ t, tlbOp s k = .next t ∧ t.gpr = s.gpr ∧ t.mem = s.mem ∧ t.cp0.sr = s.cp0.sr ∧ t.pc = s.npc :=
    ⟨_, tlbOp_of_not_hasMmu hu h k, rfl, rfl, rfl, rfl⟩
  simp only [List.forall_mem_cons]
  refine ⟨op _, op _, op _, ⟨_, (withCop_of_usable hu _).trans (congrArg done (if_neg ?_)), rfl, rfl, rfl, rfl⟩,
    List.forall_mem_nil _⟩
  simp [h]

/-- Settles O48. -/
theorem tlbReadAndWrite : Obligations.TlbReadAndWrite := by
  refine ⟨fun s hu hmmu hl => ?_, fun s hu h => tlbInstruction_without_tlb hu h⟩
  intro i
  have hi : s.indexView = i := indexView_of_no_recent hl
  have he : s.entryView = ⟨s.cp0.entryHi, s.cp0.entryLo⟩ := entryView_of_no_recent hl
  refine ⟨?_, ?_, ?_⟩
  · show WritesCp0AndFlushes s (tlbOp s (s.readTlb s.indexView)) _
    rw [tlbOp_of_hasMmu hu hmmu, hi]
    exact writesCp0AndHolds_done s _ [] _
  · refine ⟨(s.writeTlb i ⟨s.cp0.entryHi, s.cp0.entryLo⟩).advance, ?_, rfl, rfl, fun _ => rfl, fun _ => rfl⟩
    rw [← hi, ← he]
    exact tlbOp_of_hasMmu hu hmmu _
  · refine ⟨(s.tickRandom.writeTlb s.tickRandom.cp0.random ⟨s.cp0.entryHi, s.cp0.entryLo⟩).advance, ?_,
      tickRandom_random s, rfl, rfl, fun _ => rfl, fun _ => rfl⟩
    rw [← he]
    exact tlbOp_of_hasMmu hu hmmu _

/-! ## `tlbp` (R347) -/

/-- Index takes `v`; the next `mfc0` may still read the earlier one (70_reset_and_hazards.md R600). -/
def setIndex (s : State) (old v : Word) : State := { s with cp0 := { s.cp0 with index := v } }.noteCp0 0 old 1 0

/-- The probe's answer by the list of matches, before a shutdown. -/
theorem probeTlb_eq {s : State} (hl : NoRecentMtc0 s) (hts : s.tlbShutDown = false) :
    s.probeTlb =
      match s.tlbMatches 1 (s.cp0.entryHi.extractLsb' 12 20) (s.cp0.entryHi.extractLsb' 6 6) with
      | [] => setIndex s s.cp0.index 0x80000000
      | [i] => setIndex s s.cp0.index (indexOf i)
      | _ => setIndex (shutDown s) s.cp0.index (s.free .tlbIndex) := by
  unfold State.probeTlb
  rw [hts, entryView_of_no_recent hl]
  rfl

theorem probeTlb_of_no_match {s : State} (hl : NoRecentMtc0 s) (hts : s.tlbShutDown = false)
    (h : ∀ i, i ∉ s.tlbMatches 1 (s.cp0.entryHi.extractLsb' 12 20) (s.cp0.entryHi.extractLsb' 6 6)) :
    s.probeTlb = setIndex s s.cp0.index 0x80000000 := by
  rw [probeTlb_eq hl hts, List.eq_nil_iff_forall_not_mem.mpr h]

theorem probeTlb_of_one_match {s : State} (hl : NoRecentMtc0 s) (hts : s.tlbShutDown = false) {i : BitVec 6}
    (hi : i ∈ s.tlbMatches 1 (s.cp0.entryHi.extractLsb' 12 20) (s.cp0.entryHi.extractLsb' 6 6))
    (h : ∀ j ∈ s.tlbMatches 1 (s.cp0.entryHi.extractLsb' 12 20) (s.cp0.entryHi.extractLsb' 6 6), j = i) :
    s.probeTlb = setIndex s s.cp0.index (indexOf i) := by
  have hone := List.perm_singleton.mp <|
    (List.perm_ext_iff_of_nodup (tlbMatches_nodup _ _ _ _) (List.nodup_singleton i)).mpr
      fun j => ⟨fun hj => List.mem_singleton.mpr (h j hj), fun hj => List.mem_singleton.mp hj ▸ hi⟩
  rw [probeTlb_eq hl hts, hone]

theorem probeTlb_of_two_matches {s : State} (hl : NoRecentMtc0 s) (hts : s.tlbShutDown = false) {i j : BitVec 6}
    (hne : i ≠ j) (hi : i ∈ s.tlbMatches 1 (s.cp0.entryHi.extractLsb' 12 20) (s.cp0.entryHi.extractLsb' 6 6))
    (hj : j ∈ s.tlbMatches 1 (s.cp0.entryHi.extractLsb' 12 20) (s.cp0.entryHi.extractLsb' 6 6)) :
    s.probeTlb = setIndex (shutDown s) s.cp0.index (s.free .tlbIndex) := by
  rw [probeTlb_eq hl hts]
  generalize s.tlbMatches 1 _ _ = l at hi hj ⊢
  match l with
  | [] => simp at hi
  | [k] =>
    rw [List.mem_singleton] at hi hj
    exact absurd (hi.trans hj.symm) hne
  | _ :: _ :: _ => rfl

/-- The probe touches nothing but coprocessor 0 and its windows. -/
theorem probeTlb_frame (s : State) :
    s.probeTlb = { s with cp0 := s.probeTlb.cp0, pipe := { s.pipe with late := s.probeTlb.pipe.late } } := by
  unfold State.probeTlb
  simp only []
  split
  · rfl
  · split <;> rfl

theorem indexOf_eq (i : BitVec 6) : indexOf i = BitVec.ofNat 32 (i.toNat * 256) := by
  have hlt := i.isLt
  apply BitVec.eq_of_toNat_eq
  rw [indexOf, BitVec.toNat_shiftLeft, BitVec.toNat_setWidth, BitVec.toNat_ofNat, Nat.shiftLeft_eq]
  omega

/-- The machine inside `tlbp`. -/
def atTlbp (s : State) : State := { s with pipe := { s.pipe with this := .tlbp } }

theorem exec_tlbp {s : State} (hu : s.usable 0 = true) (h : s.cfg.hasMmu = true) :
    exec .tlbp s = .next (atTlbp s).probeTlb.advance :=
  (withCop_of_usable hu _).trans (congrArg done (if_pos h))

/-- Settles O49: the entries that match are the members of the list of matches, as for a translation. -/
theorem tlbProbe : Obligations.TlbProbe := by
  intro s hu hmmu hl htlb hts hit
  have hmem (i : BitVec 6) : i ∈ (atTlbp s).tlbMatches 1 (s.cp0.entryHi.extractLsb' 12 20)
      (s.cp0.entryHi.extractLsb' 6 6) ↔ hit i.toFin := by
    rw [mem_tlbMatches_iff, tlbView_of_settled (s := atTlbp s) htlb, hits_iff]
    rfl
  have hcp0 : (atTlbp s).probeTlb.advance.cp0 = (atTlbp s).probeTlb.cp0 := rfl
  refine ⟨_, exec_tlbp hu hmmu, fun h => ?_, fun i hi h => ?_, fun i j hne hi hj => ?_, ?_, ?_, ?_⟩
  · rw [hcp0, probeTlb_of_no_match (s := atTlbp s) hl hts fun i hi => h i.toFin ((hmem i).mp hi)]
    rfl
  · rw [hcp0, probeTlb_of_one_match (s := atTlbp s) hl hts ((hmem (.ofFin i)).mpr hi)
      fun j hj => congrArg BitVec.ofFin (h j.toFin ((hmem j).mp hj)), indexOf_eq]
    rfl
  · rw [hcp0, probeTlb_of_two_matches (s := atTlbp s) hl hts (fun h => hne (congrArg BitVec.toFin h))
      ((hmem (.ofFin i)).mpr hi) ((hmem (.ofFin j)).mpr hj)]
    rfl
  · conv_lhs => rw [probeTlb_frame (atTlbp s)]
    rfl
  · exact settledByte_congr (by simp [atTlbp])
  · intro q
    rw [probeTlb_frame (atTlbp s)]
    rfl

end Sys2Proof.Proofs

/-! Coprocessors that are not there: 2 and 3 on every member, 1 on a part without the FPA. -/

namespace Sys2Proof.Proofs

open Sys2Proof.Machine Sys2Proof.Laws

/-! ## Moves and operations (45_system_cp0_tlb.md R353-R359, 46_coprocessor_fpa.md R372) -/

theorem changesNothing_done (s : State) : ChangesNothing s (done s) := ⟨_, rfl, fun _ => rfl, fun _ => rfl, rfl⟩

theorem changesNothing_discardToAbsent {z : BitVec 2} {s : State} (hu : s.usable z = true) :
    ChangesNothing s (discardToAbsent z s) := by
  rw [discardToAbsent, withCop_of_usable hu]
  exact changesNothing_done s

/-- Every operation of an FPA that is not there, and every move to it, ends at once. -/
theorem changesNothing_fpOp {s : State} (hu : s.usable 1 = true) (h : s.cfg.hasFpa = false) (k : Result) :
    ChangesNothing s (fpOp s k) := by
  rw [fpOp, withCop_of_usable hu, if_neg (by simp [h])]
  exact changesNothing_done s

/-- A move from a usable coprocessor delivers what it reads. -/
theorem movesToGpr_withCop {z : BitVec 2} {s : State} (hu : s.usable z = true) (rt : Reg) (v : Word) :
    MovesToGpr s (withCop z s (done (s.setGprLate rt v false))) rt v := by
  rw [withCop_of_usable hu]
  exact movesToGpr_done s rt v

theorem fcrRead_zero_of_noFpa {s : State} (h : s.cfg.hasFpa = false) : (s.fcrRead 0).extractLsb' 8 8 = 0#8 := by
  unfold State.fcrRead
  rw [if_neg (by simp [h]), if_pos rfl]
  ext i hi
  interval_cases i <;> simp

/-- Settles O50. -/
theorem absentCoprocessors : Obligations.AbsentCoprocessors := by
  intro s rt rd fd fs ft cofun
  refine ⟨fun hu => ?_, fun hu => ?_, fun hu hfpa => ⟨?_, ?_⟩⟩
  · have discards := changesNothing_discardToAbsent hu
    have delivers := movesToGpr_withCop hu rt (s.free .coprocessor)
    exact ⟨discards, discards, discards, ⟨_, delivers⟩, ⟨_, delivers⟩⟩
  · have discards := changesNothing_discardToAbsent hu
    exact ⟨discards, discards, discards, ⟨_, movesToGpr_withCop hu rt (s.free .coprocessor)⟩⟩
  · have ends := changesNothing_fpOp hu hfpa
    simp only [List.forall_mem_cons, List.not_mem_nil, false_imp_iff, implies_true, and_true]
    and_intros
    all_goals exact ends _
  · have delivers := movesToGpr_withCop hu rt
    exact ⟨⟨_, delivers _⟩, ⟨_, delivers _⟩, _, fcrRead_zero_of_noFpa hfpa, delivers _⟩

/-! ## Loads and stores (R357, R358, R372) -/

/-- An aligned read of memory hands its continuation the machine with no general register changed, and what a load may
change of memory, the write buffer and the D-cache. -/
theorem readMem_delivers {s : State} {va pa : Word} {u : Bool} {size : Nat} (hp : MayAccess s) (hn : NormalCaches s)
    (ht : s.translate va false = .ok pa u) (hm : LineIsMemory s pa) (ha : va.toNat % size = 0)
    (k : Word → State → Result) :
    ∃ t, readMem va size s k = k (s.deliveredWord u pa) t ∧ SameMemory s t ∧
      t = { atMemory s with mem := t.mem, wbuf := t.wbuf, dcache := t.dcache } ∧ ReadLeaves s t u pa := by
  obtain ⟨t, hl, hsame, hframe, hleaves⟩ := load_delivers (s := atMemory s) (va := va) hn ht hm
  refine ⟨t, ?_, hsame, hframe, hleaves⟩
  unfold readMem
  rw [memoryOp_of_mayAccess hp, misaligned_of_aligned ha, hl]
  rfl

/-- A load whose word goes nowhere: a read, and no register. -/
theorem readMem_discards {s : State} {va pa : Word} {u : Bool} (hp : MayAccess s) (hn : NormalCaches s)
    (ht : s.translate va false = .ok pa u) (hm : LineIsMemory s pa) (ha : va.toNat % 4 = 0)
    {k : Word → State → Result} (hk : ∀ w t, k w t = done t) :
    ∃ t, readMem va 4 s k = .next t ∧ (∀ q, t.gprAt q = s.gprAt q) ∧ LoadFrame s t 0 ∧ ReadLeaves s t u pa := by
  obtain ⟨t, hread, hsame, hframe, hleaves⟩ := readMem_delivers hp hn ht hm ha k
  have hgpr : t.advance.gpr = s.gpr := by
    rw [advance_gpr, hframe]
    rfl
  refine ⟨t.advance, hread.trans (hk _ t), fun q => ?_, ⟨hsame, ?_⟩, hleaves⟩
  · rw [State.gprAt, hgpr]
    rfl
  · rw [hgpr]
    conv_lhs => rw [hframe]
    rfl

/-- Settles O51. -/
theorem absentCoprocessorMemory : Obligations.AbsentCoprocessorMemory := by
  intro s rt base offset pa u va hc hp hn ha
  refine ⟨fun ht hm => ?_, fun ht => ?_⟩
  · have load {z : BitVec 2} (hu : s.usable z = true) {k : Word → State → Result} (hk : ∀ w t, k w t = done t) :
        ∃ t, withCop z s (readMem va 4 s k) = .next t ∧ (∀ q, t.gprAt q = s.gprAt q) ∧ LoadFrame s t 0 ∧
          ReadLeaves s t u pa := by
      rw [withCop_of_usable hu]
      exact readMem_discards hp hn ht hm ha hk
    exact ⟨fun hu => load hu fun _ _ => rfl, fun hu => load hu fun _ _ => rfl,
      fun hu hfpa => load hu fun _ _ => congrArg done (if_neg (by simp [hfpa]))⟩
  · have store {z : BitVec 2} (hu : s.usable z = true) (w : Word) :
        StoresLanes s (withCop z s (writeMem va 4 w (lanes 0 4) s)) pa w 0b1111 := by
      rw [withCop_of_usable hu]
      exact writeMem_stores hc hp hn ht (misaligned_of_aligned ha) w _
    exact ⟨fun hu => ⟨_, store hu _⟩, fun hu _ => ⟨_, store hu _⟩⟩

end Sys2Proof.Proofs

/-! The floating-point accelerator: how its instructions end, its registers and FCR31, `lwc1`, and what it declines. -/

namespace Sys2Proof.Proofs

open Sys2Proof.Machine Sys2Proof.Laws

/-! ## Moves and control registers (46_coprocessor_fpa.md R428-R431) -/

theorem fpOp_of_ready {s : State} (h : FpaReady s) (k : Result) : fpOp s k = k := by
  rw [fpOp, withCop_of_usable h.1, if_pos h.2]

theorem fcrView_of_settled {s : State} (h : s.pipe.fcrShadow = none) : s.fcrView = s.fcr31 := by
  unfold State.fcrView; rw [h]

theorem exec_mfc1 {s : State} (h : FpaReady s) (rt fs : Reg) :
    exec (.mfc1 rt fs) s = withCop 1 s (done (s.setGprLate rt (s.srcFpr fs) false)) := by
  simp only [exec, execMfc1, h.2, if_true]

theorem fcrRead_of_fpa {s : State} (h : s.cfg.hasFpa = true) :
    s.fcrRead 0 = s.cfg.fcr0 ∧ s.fcrRead 31 = s.fcrView := by
  unfold State.fcrRead
  rw [h]
  exact ⟨rfl, rfl⟩

theorem exec_ctc1 {s : State} (h : FpaReady s) (rt fs : Reg) :
    exec (.ctc1 rt fs) s = done (if fs = 31 then s.writeFcr31 (s.src rt) else s) := fpOp_of_ready h _

/-- Settles O59. -/
theorem fpRegisterMoves : Obligations.FpRegisterMoves := by
  intro s rt fs hready
  obtain ⟨hfcr0, hfcr31⟩ := fcrRead_of_fpa hready.2
  refine ⟨?_, ?_, fun hsettled => ?_, ?_, ?_, ?_⟩
  · rw [exec_mfc1 hready]
    exact movesToGpr_withCop hready.1 rt _
  · rw [← hfcr0]
    exact movesToGpr_withCop hready.1 rt _
  · rw [← fcrView_of_settled hsettled, ← hfcr31]
    exact movesToGpr_withCop hready.1 rt _
  · rw [exec_ctc1 hready]
    exact changesNothing_done s
  · exact ⟨(s.setFprLate fs (s.src rt)).advance, fpOp_of_ready hready _,
      (fprAt_setFpr s fs _ fs).trans (if_pos rfl), fun q hq => (fprAt_setFpr s fs _ q).trans (if_neg hq), fun _ => rfl,
      fun _ => rfl, rfl⟩
  · exact ⟨_, exec_ctc1 hready rt 31, rfl, fun _ => rfl, fun _ => rfl, rfl⟩

/-! ## `lwc1` (R433) -/

/-- Settles O60. -/
theorem fpLoadResult : Obligations.FpLoadResult := by
  intro s ft base offset pa u va hready hp hn ha ht hm
  obtain ⟨t, hread, hsame, hframe, hleaves⟩ := readMem_delivers hp hn ht hm ha
    fun w t => done (if s.cfg.hasFpa then t.setFprLate ft w else t)
  obtain ⟨mem, wbuf, dcache, rfl⟩ : ∃ m w d, t = { atMemory s with mem := m, wbuf := w, dcache := d } :=
    ⟨_, _, _, hframe⟩
  refine ⟨_, (withCop_of_usable hready.1 _).trans (hread.trans (congrArg done (if_pos hready.2))), ?_, ?_, hsame,
    fun _ => rfl, hleaves, rfl⟩
  · exact (fprAt_setFpr _ ft _ ft).trans (if_pos rfl)
  · exact fun q hq => (fprAt_setFpr _ ft _ q).trans (if_neg hq)

/-! ## The fields of FCR31 after an operation (10_state.md R75, 46_coprocessor_fpa.md R380) -/

/-- Words that agree under a mask agree in the bits it selects. -/
theorem bit_of_and_eq {f g z : Word} (h : f &&& z = g &&& z) {i : Nat} (hz : z.getLsbD i = true) :
    f.getLsbD i = g.getLsbD i := by
  have hbit := congrArg (BitVec.getLsbD · i) h
  simpa [hz] using hbit

theorem field_of_and_eq {f g z : Word} (h : f &&& z = g &&& z) {lo n : Nat}
    (hz : ∀ i, i < n → z.getLsbD (lo + i) = true) : f.extractLsb' lo n = g.extractLsb' lo n := by
  apply BitVec.eq_of_getLsbD_eq
  intro i hi
  rw [BitVec.getLsbD_extractLsb', BitVec.getLsbD_extractLsb', bit_of_and_eq h (hz i hi)]

/-- Under a mask without UnImp and Cause a write of them changes nothing. -/
theorem setFcrCause_and {z : Word} (h : 0x0003F000#32 &&& z = 0#32) (f : Word) (unimp : Bool) (cause : BitVec 5) :
    setFcrCause f unimp cause &&& z = f &&& z := by
  have hz : ~~~0x0003F000#32 &&& z = z := by
    rw [← BitVec.zero_or (x := ~~~0x0003F000#32 &&& z), ← h, ← BitVec.and_or_distrib_right]
    exact BitVec.allOnes_and
  refine (mergeBits_and 0x0003F000#32 _ f z).trans ?_
  rw [h, hz, BitVec.and_zero, BitVec.zero_or]

/-- Under a mask without Flags setting them changes nothing. -/
theorem orFcrFlags_and {z : Word} (h : 0x0000007C#32 &&& z = 0#32) (f : Word) (flags : BitVec 5) :
    orFcrFlags f flags &&& z = f &&& z := by
  have hflags : (flags.setWidth 32 <<< 2) &&& 0x0000007C#32 = flags.setWidth 32 <<< 2 := by
    revert flags; decide
  rw [orFcrFlags, BitVec.and_or_distrib_right, ← hflags, BitVec.and_assoc, h, BitVec.and_zero, BitVec.or_zero]

section Fields

variable (f : Word) (unimp c : Bool) (cause flags : BitVec 5)

theorem fcrUnimp_setFcrCause : fcrUnimp (setFcrCause f unimp cause) = unimp := by
  rw [fcrUnimp, setFcrCause, mergeBits_getLsbD _ _ _ (by decide)]
  cases unimp <;> simp

theorem fcrCause_setFcrCause : fcrCause (setFcrCause f unimp cause) = cause := by
  rw [fcrCause, setFcrCause, mergeBits_extractLsb' (by decide) (by decide)]
  revert unimp cause
  decide

theorem fcrFlags_setFcrCause : fcrFlags (setFcrCause f unimp cause) = fcrFlags f :=
  field_of_and_eq (z := 0x0000007C) (setFcrCause_and rfl f unimp cause) (by decide)

theorem fcrEnables_setFcrCause : fcrEnables (setFcrCause f unimp cause) = fcrEnables f :=
  field_of_and_eq (z := 0x00000F80) (setFcrCause_and rfl f unimp cause) (by decide)

theorem fcrUnimp_orFcrFlags : fcrUnimp (orFcrFlags f flags) = fcrUnimp f :=
  bit_of_and_eq (z := 0x00020000) (orFcrFlags_and rfl f flags) (by decide)

theorem fcrCause_orFcrFlags : fcrCause (orFcrFlags f flags) = fcrCause f :=
  field_of_and_eq (z := 0x0001F000) (orFcrFlags_and rfl f flags) (by decide)

theorem fcrEnables_orFcrFlags : fcrEnables (orFcrFlags f flags) = fcrEnables f :=
  field_of_and_eq (z := 0x00000F80) (orFcrFlags_and rfl f flags) (by decide)

theorem fcrFlags_orFcrFlags : fcrFlags (orFcrFlags f flags) = fcrFlags f ||| flags := by
  rw [fcrFlags, orFcrFlags, BitVec.extractLsb'_or]
  congr 1
  revert flags
  decide

theorem fcrC_setFcrC : fcrC (setFcrC f c) = c := by
  cases c <;> simp [fcrC, setFcrC, setBit]

/-- FCR31 after an operation that is performed without a trap. -/
theorem fcrAfter_performed : FcrAfter f (orFcrFlags (setFcrCause f false flags) flags) flags := by
  refine ⟨?_, ?_, ?_, (orFcrFlags_and rfl _ _).trans (setFcrCause_and rfl _ _ _)⟩
  · rw [fcrUnimp_orFcrFlags, fcrUnimp_setFcrCause]
  · rw [fcrCause_orFcrFlags, fcrCause_setFcrCause]
  · rw [fcrFlags_orFcrFlags, fcrFlags_setFcrCause]

/-- UnImp is a request, whatever Cause is (R432). -/
theorem fpRequest_unimp : fpRequest (setFcrCause f true cause) = true := by
  rw [fpRequest, fcrUnimp_setFcrCause, Bool.true_or]

/-- Without UnImp it is an enabled exception in Cause that requests the interrupt (R432). -/
theorem fpRequest_cause : fpRequest (setFcrCause (orFcrFlags f flags) false cause) = (cause &&& fcrEnables f != 0) := by
  rw [fpRequest, fcrUnimp_setFcrCause, fcrCause_setFcrCause, fcrEnables_setFcrCause, fcrEnables_orFcrFlags,
    Bool.false_or]

end Fields

/-! ## The ends of an operation (R380, R432) -/

theorem interruptBy_of_no_recent {s : State} (hl : NoRecentMtc0 s) (ip soft : Word) (n : Nat) :
    s.interruptBy ip soft n = irqCondition s.cp0.sr s.cp0.sr ip (s.cp0.cause &&& soft) := by
  unfold State.interruptBy
  simp [recent_nil hl]

/-- With no recent `mtc0` the FPA's request is enabled by SR.IEc and the mask bit of the input Config.FPInt names. -/
theorem fpInterruptEnabled_of_no_recent {s : State} (hl : NoRecentMtc0 s) (hfpa : s.cfg.hasFpa = true)
    (hn : (s.cp0.config.extractLsb' 26 3).toNat < 6) : s.fpInterruptEnabled = true ↔ FpRequestEnabled s := by
  unfold State.fpInterruptEnabled
  rw [interruptBy_of_no_recent hl, fpPins_of_fpa hl hfpa hn, FpRequestEnabled]
  generalize (s.cp0.config.extractLsb' 26 3).toNat = n at hn
  have hpin : (1#6 <<< n).setWidth 32 <<< 10 = BitVec.twoPow 32 (10 + n) := by interval_cases n <;> rfl
  have hmask : BitVec.twoPow 32 (10 + n) &&& 0xFF00 = BitVec.twoPow 32 (10 + n) := by interval_cases n <;> rfl
  have hpos : BitVec.twoPow 32 (10 + n) ≠ 0#32 := by interval_cases n <;> decide
  have hsoft : s.cp0.cause &&& 0#32 &&& 0x300 = 0#32 := by rw [BitVec.and_zero, BitVec.zero_and]
  have hbit : (BitVec.twoPow 32 (10 + n) ||| s.cp0.cause &&& 0#32 &&& 0x300) &&& s.cp0.sr &&& 0xFF00 =
      if s.cp0.sr.getLsbD (10 + n) then BitVec.twoPow 32 (10 + n) else 0#32 := by
    rw [hsoft, BitVec.or_zero, BitVec.and_comm _ s.cp0.sr, BitVec.and_assoc, hmask, BitVec.and_twoPow]
  simp only [hpin, irqCondition, BitVec.ofNat_eq_ofNat] at hbit ⊢
  rw [hbit]
  cases s.cp0.sr.getLsbD (10 + n) <;> simp [hpos]

/-- A request that FCR31 `f` makes is taken at the instruction, or the machine goes on with FCR31 `g`. -/
theorem fpRequests_fpTrap {s : State} (hfpa : s.cfg.hasFpa = true) {f : Word} (hf : fpRequest f = true) (g : Word) :
    FpRequests s (fpTrap { s with fcr31 := f } g) f g := by
  have htrap : fpTrap { s with fcr31 := f } g =
      if s.fpInterruptEnabled then .next (({ s with fcr31 := f } : State).takeException .int)
      else .next { s with fcr31 := g, pc := s.npc, npc := s.npc + 4, inDelay := false } := by
    have henabled : ({ s with fcr31 := f } : State).fpInterruptEnabled = s.fpInterruptEnabled := rfl
    rw [fpTrap, henabled, hf, Bool.true_and]
    rfl
  rw [htrap]
  refine ⟨?_, fun hl hn => ?_⟩
  · split
    · exact .inl rfl
    · exact .inr rfl
  · rw [← fpInterruptEnabled_of_no_recent hl hfpa hn]
    exact ⟨fun h => if_pos h, fun h => if_neg h⟩

theorem fpDeclines_fpDecline {s : State} (hfpa : s.cfg.hasFpa = true) : FpDeclines s (fpDecline s) :=
  ⟨_, fcrUnimp_setFcrCause _ _ _, setFcrCause_and rfl _ _ _, fpRequests_fpTrap hfpa (fpRequest_unimp _ _) _⟩

/-- The Cause that stays when nobody takes the trap keeps the request up. -/
theorem maskedCause_enabled {free exc enables : BitVec 5} (h : exc &&& enables ≠ 0) :
    maskedCause free exc enables &&& enables ≠ 0 := by
  unfold maskedCause
  split
  · exact h
  · assumption

theorem fpTraps_fpDeliver {s : State} (hfpa : s.cfg.hasFpa = true) {exc : BitVec 5}
    (hview : s.pipe.fcrShadow = none) (henabled : exc &&& fcrEnables s.fcr31 ≠ 0) (t : State) :
    FpTraps s (fpDeliver exc s t) exc := by
  have hkept (flags cause : BitVec 5) :
      setFcrCause (orFcrFlags s.fcr31 flags) false cause &&& 0xFFFC0F83 = s.fcr31 &&& 0xFFFC0F83 :=
    (setFcrCause_and rfl _ _ _).trans (orFcrFlags_and rfl _ _)
  unfold fpDeliver
  rw [fcrView_of_settled hview, if_neg henabled]
  refine ⟨_, _, fcrUnimp_setFcrCause _ _ _, fcrCause_setFcrCause _ _ _, hkept _ _, ?_, hkept _ _,
    fpRequests_fpTrap hfpa ?_ _⟩
  · rw [fpRequest_cause, bne_iff_ne]
    exact maskedCause_enabled henabled
  · rw [fpRequest_cause, bne_iff_ne]
    exact henabled

/-- What an operation whose exceptions are masked leaves, `t` being the machine with the destination written. -/
theorem fpDeliver_of_masked {s : State} {exc : BitVec 5} (h : exc &&& fcrEnables s.fcrView = 0) (t : State) :
    fpDeliver exc s t = done { t with fcr31 := orFcrFlags (setFcrCause t.fcr31 false exc) exc } := by
  rw [fpDeliver, if_pos h]

/-! ## The destination (R374-R376) -/

theorem pairEven_of_even {r : Reg} (h : r.getLsbD 0 = false) : pairEven r = r := by
  revert r; decide

theorem or_one_ne_of_even {r : Reg} (h : r.getLsbD 0 = false) : r ≠ r ||| 1 := by
  revert r; decide

theorem evenSpecifier_of_even {r : Reg} (h : r.getLsbD 0 = false) : evenSpecifier r = true := by
  rw [evenSpecifier, h]; rfl

/-- A write of a pair, even half last. -/
theorem fprAfter_setFpr_pair (s : State) {fd : Reg} (h : fd.getLsbD 0 = false) {d : Bool} {odd : Word} {v : BitVec 64}
    (hodd : d = true → odd = v.extractLsb' 32 32) :
    FprAfter s ((s.setFpr (pairOdd fd) odd).setFpr (pairEven fd) (v.extractLsb' 0 32)) d fd v := by
  rw [pairEven_of_even h, pairOdd]
  refine ⟨?_, fun hd => ?_, fun q hq hq' => ?_⟩
  · rw [fprAt_setFpr, if_pos rfl]
  · rw [fprAt_setFpr, if_neg (or_one_ne_of_even h).symm, fprAt_setFpr, if_pos rfl, hodd hd]
  · rw [fprAt_setFpr, if_neg hq, fprAt_setFpr, if_neg hq']

theorem fprAfter_storeFp (s : State) (d : Bool) {fd : Reg} (h : fd.getLsbD 0 = false) (v : BitVec 64) :
    FprAfter s (s.storeFp d fd v) d fd v := by
  cases d with
  | true => exact fprAfter_setFpr_pair s h fun _ => rfl
  | false => exact fprAfter_setFpr_pair s h (fun hd => by cases hd)

theorem storeFp_eq (s : State) (d : Bool) (fd : Reg) (v : BitVec 64) :
    s.storeFp d fd v = { s with fpr := (s.storeFp d fd v).fpr } := by
  cases d <;> rfl

/-- An operation whose exceptions are masked delivers its result. -/
theorem fpDelivers_fpDeliver {s : State} {exc : BitVec 5} (hmasked : exc &&& fcrEnables s.fcrView = 0) (d : Bool)
    {fd : Reg} (h : fd.getLsbD 0 = false) (v : BitVec 64) :
    FpDelivers s (fpDeliver exc s (s.storeFp d fd v)) d fd v exc := by
  have hfpr := fprAfter_storeFp s d h v
  rw [fpDeliver_of_masked hmasked]
  rw [storeFp_eq] at hfpr ⊢
  exact ⟨_, rfl, hfpr, fcrAfter_performed s.fcr31 exc, fun _ => rfl, fun _ => rfl, rfl⟩

/-! ## The shapes of the operations -/

section Shapes

variable {s : State} (hready : FpaReady s) {fd fs ft : Reg} (hd : fd.getLsbD 0 = false) (hs : fs.getLsbD 0 = false)
  (ht : ft.getLsbD 0 = false)

include hready hd hs in
theorem fpUnary_of_even (fromDouble toDouble : Bool) (op : State → BitVec 64 → FpOutcome) (word : Word) :
    fpUnary fromDouble toDouble op word fd fs s =
      fpComplete word (s.srcFp fromDouble fs) 0 (op s (s.srcFp fromDouble fs)) s (s.storeFp toDouble fd) := by
  rw [fpUnary, fpOp_of_ready hready, evenSpecifier_of_even hd, evenSpecifier_of_even hs]
  rfl

include hready hd hs in
theorem fpMove_of_even (d : Bool) : fpMove d fd fs s = done (s.storeFp d fd (s.srcFp d fs)) := by
  rw [fpMove, fpOp_of_ready hready, evenSpecifier_of_even hd, evenSpecifier_of_even hs]
  rfl

include hready hd hs ht in
theorem fpBinary_of_even (d : Bool) (op : FpFormat → BitVec 2 → Bool → Bool → Fp → Fp → FpOutcome) (word : Word) :
    fpBinary d op word fd fs ft s =
      fpComplete word (s.srcFp d fs) (s.srcFp d ft)
        (op (formatOf d) s.fpMode s.fpTiny s.fpInvalidEnabled ((formatOf d).unpack (s.srcFp d fs))
          ((formatOf d).unpack (s.srcFp d ft))) s (s.storeFp d fd) := by
  rw [fpBinary, fpOp_of_ready hready, evenSpecifier_of_even hd, evenSpecifier_of_even hs, evenSpecifier_of_even ht]
  rfl

/-- The machine inside a compare: the condition is not settled before the second instruction after (R594). -/
def settling (s : State) : State := { s with pipe := { s.pipe with condWin := 2 } }

include hready hs ht in
theorem fpCompare_of_even (d : Bool) (cond : BitVec 4) (word : Word) :
    fpCompare d cond word fs ft s =
      fpComplete word (s.srcFp d fs) (s.srcFp d ft)
        (compareOutcome cond s.fpInvalidEnabled ((formatOf d).unpack (s.srcFp d fs))
          ((formatOf d).unpack (s.srcFp d ft))) (settling s)
        fun r => { settling s with fcr31 := setFcrC s.fcr31 (r == 1) } := by
  rw [fpCompare, fpOp_of_ready hready, evenSpecifier_of_even hs, evenSpecifier_of_even ht]
  rfl

end Shapes

/-! ## `abs`, `neg` and `mov` (R393-R398) -/

/-- A single holds nothing above bit 31. -/
theorem srcSingle_and (s : State) (r : Reg) : s.srcSingle r &&& 0xFFFFFFFF = s.srcSingle r := by
  apply BitVec.eq_of_toNat_eq
  rw [State.srcSingle, BitVec.toNat_and, BitVec.toNat_setWidth_of_le (by decide)]
  exact (Nat.and_two_pow_sub_one_eq_mod _ 32).trans (Nat.mod_eq_of_lt (s.srcFpr r).isLt)

/-- The sign operations of a number deliver what they make of its bits, with no exception. -/
theorem fpDelivers_fpSign {s : State} (hready : FpaReady s) {fd fs : Reg} (hd : fd.getLsbD 0 = false)
    (hs : fs.getLsbD 0 = false) {d n : Bool} {m : Nat} {e : Int}
    (ha : (formatOf d).unpack (s.srcFp d fs) = .finite n m e) (f : BitVec 64 → BitVec 64 → BitVec 64) (word : Word)
    {v : BitVec 64} (hv : f (s.srcFp d fs) (if d then 0x8000000000000000 else 0x80000000) = v) :
    FpDelivers s (fpUnary d d (fpSign d f) word fd fs s) d fd v 0 := by
  rw [fpUnary_of_even hready hd hs, fpSign, ha, hv]
  exact fpDelivers_fpDeliver (BitVec.zero_and) d hd v

theorem fpMove_moves {s : State} (hready : FpaReady s) {fd fs : Reg} (hd : fd.getLsbD 0 = false)
    (hs : fs.getLsbD 0 = false) (d : Bool) :
    ∃ t, fpMove d fd fs s = .next t ∧ FprAfter s t d fd (s.srcFp d fs) ∧ SameMemory s t ∧ (∀ q, t.gprAt q = s.gprAt q) ∧
      t = { s with fpr := t.fpr, pc := s.npc, npc := s.npc + 4, inDelay := false } := by
  have hfpr := fprAfter_storeFp s d hd (s.srcFp d fs)
  rw [fpMove_of_even hready hd hs]
  rw [storeFp_eq] at hfpr ⊢
  exact ⟨_, rfl, hfpr, fun _ => rfl, fun _ => rfl, rfl⟩

/-- Settles O54. -/
theorem fpSignAndMove : Obligations.FpSignAndMove := by
  intro s fd fs hready hd hs
  refine ⟨fun n m e ha => ⟨?_, ?_⟩, fun n m e ha => ⟨?_, ?_⟩, fpMove_moves hready hd hs false,
    fpMove_moves hready hd hs true⟩
  · refine fpDelivers_fpSign (d := false) hready hd hs ha _ _ ?_
    show s.srcSingle fs &&& _ = _
    rw [← srcSingle_and, BitVec.and_assoc, BitVec.and_assoc]
    rfl
  · exact fpDelivers_fpSign (d := false) hready hd hs ha _ _ rfl
  · exact fpDelivers_fpSign (d := true) hready hd hs ha _ _ rfl
  · exact fpDelivers_fpSign (d := true) hready hd hs ha _ _ rfl

/-! ## What the FPA declines (R379, R381) -/

/-- The operands the FPA takes in no operation while invalid operations are not enabled. -/
def Refused (x : Fp) : Prop := x = .denormal ∨ x = .quietNan ∨ x = .signallingNan

theorem refused_negate {x : Fp} (h : Refused x) : Refused x.negate := by
  rcases h with rfl | rfl | rfl
  · exact .inl rfl
  · exact .inr (.inl rfl)
  · exact .inr (.inr rfl)

theorem specialOperands_of_refused {a b : Fp} (h : Refused a ∨ Refused b) :
    specialOperands false a b = some .decline := by
  unfold specialOperands
  by_cases hden : a = .denormal ∨ b = .denormal
  · rw [if_pos hden]
  by_cases hsig : a = .signallingNan ∨ b = .signallingNan
  · rw [if_neg hden, if_pos hsig]
    rfl
  have hquiet : a = .quietNan ∨ b = .quietNan := by
    unfold Refused at h
    tauto
  rw [if_neg hden, if_neg hsig, if_pos hquiet]

theorem compareOutcome_of_refused (cond : BitVec 4) {a b : Fp} (h : Refused a ∨ Refused b) :
    compareOutcome cond false a b = .decline := by
  unfold compareOutcome
  by_cases hden : a = .denormal ∨ b = .denormal
  · exact if_pos hden
  have hnan : (a.isNan || b.isNan) = true := by
    rcases h with (rfl | rfl | rfl) | rfl | rfl | rfl <;> simp_all [Fp.isNan]
  simp only [if_neg hden, hnan, if_true]
  exact ite_self _

theorem signOperation_of_refused {a : Fp} (h : Refused a) (v : BitVec 64) : signOperation false a v = .decline := by
  rcases h with rfl | rfl | rfl <;> rfl

theorem toInt32_of_not_number {a : Fp} (h : Refused a ∨ ∃ n, a = .inf n) (rm : BitVec 2) : toInt32 rm a = .decline := by
  rcases h with (rfl | rfl | rfl) | ⟨n, rfl⟩ <;> rfl

section RefusedOperands

variable {a b : Fp} (f : FpFormat) (rm : BitVec 2) (tiny : Bool)

theorem add_of_refused (h : Refused a ∨ Refused b) : f.add rm tiny false a b = .decline := by
  unfold FpFormat.add
  rw [specialOperands_of_refused h]

theorem sub_of_refused (h : Refused a ∨ Refused b) : f.sub rm tiny false a b = .decline :=
  add_of_refused f rm tiny (h.imp_right refused_negate)

theorem mul_of_refused (h : Refused a ∨ Refused b) : f.mul rm tiny false a b = .decline := by
  unfold FpFormat.mul
  rw [specialOperands_of_refused h]

theorem div_of_refused (h : Refused a ∨ Refused b) : f.div rm tiny false a b = .decline := by
  unfold FpFormat.div
  rw [specialOperands_of_refused h]

theorem convert_of_refused (h : Refused a) : f.convert rm tiny false a = .decline := by
  unfold FpFormat.convert
  rw [specialOperands_of_refused (.inl h)]

end RefusedOperands

section Invalid

variable (f : FpFormat) (rm : BitVec 2) (tiny n n' : Bool) (e e' : Int)

theorem add_opposite_infinities : f.add rm tiny false (.inf n) (.inf (!n)) = .decline := by
  cases n <;> rfl

theorem sub_equal_infinities : f.sub rm tiny false (.inf n) (.inf n) = .decline := add_opposite_infinities f rm tiny n

theorem mul_infinity_zero : f.mul rm tiny false (.inf n) (.finite n' 0 e) = .decline ∧
    f.mul rm tiny false (.finite n' 0 e) (.inf n) = .decline := ⟨rfl, rfl⟩

theorem div_infinities_or_zeros : f.div rm tiny false (.inf n) (.inf n') = .decline ∧
    f.div rm tiny false (.finite n 0 e) (.finite n' 0 e') = .decline := ⟨rfl, rfl⟩

end Invalid

/-! ### The instructions, by their shape -/

/-- In both formats the arithmetic is the one two-operand shape. -/
theorem exec_arithmetic (d : Bool) (fd fs ft : Reg) (s : State) :
    (∃ w, exec (if d then .addD fd fs ft else .addS fd fs ft) s = fpBinary d FpFormat.add w fd fs ft s) ∧
    (∃ w, exec (if d then .subD fd fs ft else .subS fd fs ft) s = fpBinary d FpFormat.sub w fd fs ft s) ∧
    (∃ w, exec (if d then .mulD fd fs ft else .mulS fd fs ft) s = fpBinary d FpFormat.mul w fd fs ft s) ∧
    ∃ w, exec (if d then .divD fd fs ft else .divS fd fs ft) s = fpBinary d FpFormat.div w fd fs ft s := by
  cases d <;> exact ⟨⟨_, rfl⟩, ⟨_, rfl⟩, ⟨_, rfl⟩, _, rfl⟩

theorem exec_sign (d : Bool) (fd fs : Reg) (s : State) :
    (∃ w f, exec (if d then .absD fd fs else .absS fd fs) s = fpUnary d d (fpSign d f) w fd fs s) ∧
    ∃ w f, exec (if d then .negD fd fs else .negS fd fs) s = fpUnary d d (fpSign d f) w fd fs s := by
  cases d <;> exact ⟨⟨_, _, rfl⟩, _, _, rfl⟩

theorem exec_convert (d : Bool) (fd fs : Reg) (s : State) :
    (∃ w, exec (if d then .cvtSD fd fs else .cvtDS fd fs) s = fpUnary d (!d) (fpConvert d !d) w fd fs s) ∧
    ∃ w, exec (if d then .cvtWD fd fs else .cvtWS fd fs) s = fpUnary d false (fpToInt d) w fd fs s := by
  cases d <;> exact ⟨⟨_, rfl⟩, _, rfl⟩

/-- The compares of a format. -/
def compareInstrs (d : Bool) (fs ft : Reg) : List Instr :=
  if d then
    [.cFD fs ft, .cUnD fs ft, .cEqD fs ft, .cUeqD fs ft, .cOltD fs ft, .cUltD fs ft, .cOleD fs ft, .cUleD fs ft,
      .cSfD fs ft, .cNgleD fs ft, .cSeqD fs ft, .cNglD fs ft, .cLtD fs ft, .cNgeD fs ft, .cLeD fs ft, .cNgtD fs ft]
  else
    [.cFS fs ft, .cUnS fs ft, .cEqS fs ft, .cUeqS fs ft, .cOltS fs ft, .cUltS fs ft, .cOleS fs ft, .cUleS fs ft,
      .cSfS fs ft, .cNgleS fs ft, .cSeqS fs ft, .cNglS fs ft, .cLtS fs ft, .cNgeS fs ft, .cLeS fs ft, .cNgtS fs ft]

theorem exec_compareInstrs {d : Bool} {fs ft : Reg} {i : Instr} (h : i ∈ compareInstrs d fs ft) (s : State) :
    ∃ cond w, exec i s = fpCompare d cond w fs ft s := by
  revert i
  cases d <;>
  · simp only [compareInstrs, if_true, if_false, Bool.false_eq_true, List.forall_mem_cons, List.not_mem_nil,
      false_imp_iff, implies_true, and_true]
    and_intros
    all_goals exact ⟨_, _, rfl⟩

section Declines

variable {s : State} (hready : FpaReady s) {fd fs ft : Reg} (hd : fd.getLsbD 0 = false) (hs : fs.getLsbD 0 = false)
  (ht : ft.getLsbD 0 = false)

theorem fpDeclines_fpComplete (hfpa : s.cfg.hasFpa = true) {o : FpOutcome} (ho : o = .decline) (word : Word)
    (a b : BitVec 64) (t : BitVec 64 → State) : FpDeclines s (fpComplete word a b o s t) := by
  rw [ho]
  exact fpDeclines_fpDecline hfpa

include hready hd hs ht in
theorem fpDeclines_fpBinary {d : Bool} {op : FpFormat → BitVec 2 → Bool → Bool → Fp → Fp → FpOutcome} {r : Result}
    (hr : ∃ w, r = fpBinary d op w fd fs ft s)
    (ho : op (formatOf d) s.fpMode s.fpTiny s.fpInvalidEnabled ((formatOf d).unpack (s.srcFp d fs))
      ((formatOf d).unpack (s.srcFp d ft)) = .decline) : FpDeclines s r := by
  obtain ⟨w, rfl⟩ := hr
  rw [fpBinary_of_even hready hd hs ht]
  exact fpDeclines_fpComplete hready.2 ho _ _ _ _

include hready hd hs in
theorem fpDeclines_fpUnary {d d' : Bool} {op : State → BitVec 64 → FpOutcome} {r : Result}
    (hr : ∃ w, r = fpUnary d d' op w fd fs s) (ho : op s (s.srcFp d fs) = .decline) : FpDeclines s r := by
  obtain ⟨w, rfl⟩ := hr
  rw [fpUnary_of_even hready hd hs]
  exact fpDeclines_fpComplete hready.2 ho _ _ _ _

end Declines

theorem exec_unimplemented {s : State} (hready : FpaReady s) {w : Word} {fmt : BitVec 5} {funct : BitVec 6}
    (h : decodeWord w = .error (.unimplementedFpOperation fmt funct)) : runWord w s = fpDecline s :=
  (runWord_of_error h s).trans (fpOp_of_ready hready _)

/-- Settles O58. -/
theorem fpDeclinedOperation : Obligations.FpDeclinedOperation := by
  intro s hready
  refine ⟨fun fd fs ft hd hs ht hv d => ?_, fun w fmt funct h => ?_⟩
  swap
  · rw [exec_unimplemented hready h]
    exact fpDeclines_fpDecline hready.2
  intro a b refused zero infinite declines settling'
  obtain ⟨hadd, hsub, hmul, hdiv⟩ := exec_arithmetic d fd fs ft s
  obtain ⟨habs, hneg⟩ := exec_sign d fd fs s
  obtain ⟨hcvt, hcvtw⟩ := exec_convert d fd fs s
  have binary {op : FpFormat → BitVec 2 → Bool → Bool → Fp → Fp → FpOutcome} {r : Result}
      (hr : ∃ w, r = fpBinary d op w fd fs ft s) (ho : op (formatOf d) s.fpMode s.fpTiny false a b = .decline) :
      FpDeclines s r :=
    fpDeclines_fpBinary hready hd hs ht hr (by rw [hv]; exact ho)
  have unary {d' : Bool} {op : State → BitVec 64 → FpOutcome} {r : Result} (hr : ∃ w, r = fpUnary d d' op w fd fs s)
      (ho : op s (s.srcFp d fs) = .decline) : FpDeclines s r := fpDeclines_fpUnary hready hd hs hr ho
  refine ⟨fun h => ⟨?_, ?_, ?_, ?_, fun i hi => ?_⟩, fun h => ⟨?_, ?_, ?_⟩, fun h => ?_, fun n ha hb => ?_,
    fun n ha hb => ?_, fun h => ?_, fun h => ?_⟩
  · exact binary hadd (add_of_refused _ _ _ h)
  · exact binary hsub (sub_of_refused _ _ _ h)
  · exact binary hmul (mul_of_refused _ _ _ h)
  · exact binary hdiv (div_of_refused _ _ _ h)
  · obtain ⟨cond, w, hi⟩ := exec_compareInstrs hi s
    rw [hi, fpCompare_of_even hready hs ht, hv]
    exact fpDeclines_fpComplete (s := settling s) hready.2 (compareOutcome_of_refused cond h) _ _ _ _
  · obtain ⟨w, f, habs⟩ := habs
    exact unary ⟨w, habs⟩ (by rw [fpSign, hv]; exact signOperation_of_refused h _)
  · obtain ⟨w, f, hneg⟩ := hneg
    exact unary ⟨w, hneg⟩ (by rw [fpSign, hv]; exact signOperation_of_refused h _)
  · exact unary hcvt (by rw [fpConvert, hv]; exact convert_of_refused _ _ _ h)
  · exact unary hcvtw (toInt32_of_not_number h _)
  · exact binary hadd (by rw [ha, hb]; exact add_opposite_infinities _ _ _ n)
  · exact binary hsub (by rw [ha, hb]; exact sub_equal_infinities _ _ _ n)
  · refine binary hmul ?_
    rcases h with ⟨⟨n, ha⟩, n', e, hb⟩ | ⟨⟨n', e, ha⟩, n, hb⟩ <;> rw [ha, hb]
    · exact (mul_infinity_zero _ _ _ n n' e).1
    · exact (mul_infinity_zero _ _ _ n n' e).2
  · refine binary hdiv ?_
    rcases h with ⟨⟨n, ha⟩, n', hb⟩ | ⟨⟨n, e, ha⟩, n', e', hb⟩ <;> rw [ha, hb]
    · exact (div_infinities_or_zeros _ _ _ n n' 0 0).1
    · exact (div_infinities_or_zeros _ _ _ n n' e e').2

/-! ## Exact values (46_coprocessor_fpa.md R373) -/

theorem fpValue_eq (n : Bool) (m : Nat) (e : Int) : fpValue n m e = (signed n m : ℚ) * (2 : ℚ) ^ e := by
  cases n <;> simp [fpValue, signed]

/-- A value as an integer in units of a lower power of two. -/
theorem fpValue_aligned (n : Bool) (m : Nat) {e lo : Int} (h : lo ≤ e) :
    fpValue n m e = ((signed n m * 2 ^ (e - lo).toNat : Int) : ℚ) * (2 : ℚ) ^ lo := by
  have hexp : e = (e - lo).toNat + lo := by omega
  rw [fpValue_eq]
  conv_lhs => rw [hexp]
  rw [zpow_add₀ two_ne_zero, zpow_natCast]
  push_cast
  ring

/-! ## The order of the values (R410) -/

/-- Two finite numbers compare as their values do. -/
theorem lt_finite (na nb : Bool) (ma mb : Nat) (ea eb : Int) :
    (Fp.finite na ma ea).lt (.finite nb mb eb) = decide (fpValue na ma ea < fpValue nb mb eb) := by
  rw [fpValue_aligned na ma (min_le_left ea eb), fpValue_aligned nb mb (min_le_right ea eb), Fp.lt]
  refine decide_eq_decide.mpr ?_
  rw [mul_lt_mul_iff_left₀ (by positivity), Int.cast_lt]

theorem eq_finite (na nb : Bool) (ma mb : Nat) (ea eb : Int) :
    (Fp.finite na ma ea).eq (.finite nb mb eb) = decide (fpValue na ma ea = fpValue nb mb eb) := by
  rw [fpValue_aligned na ma (min_le_left ea eb), fpValue_aligned nb mb (min_le_right ea eb), Fp.eq]
  refine decide_eq_decide.mpr ?_
  rw [mul_left_inj' (by positivity), Int.cast_inj]

/-- The condition's less and equal bits, applied to two numbers. -/
def numbersHold (cond : BitVec 4) (x y : ℚ) : Bool :=
  (cond.getLsbD 2 && decide (x < y)) || (cond.getLsbD 1 && decide (x = y))

theorem compareOutcome_finite (cond : BitVec 4) (v na nb : Bool) (ma mb : Nat) (ea eb : Int) :
    compareOutcome cond v (.finite na ma ea) (.finite nb mb eb) =
      .must (if numbersHold cond (fpValue na ma ea) (fpValue nb mb eb) then 1 else 0) excNone := by
  have hholds : compareHolds cond (.finite na ma ea) (.finite nb mb eb) =
      numbersHold cond (fpValue na ma ea) (fpValue nb mb eb) := by
    rw [compareHolds, lt_finite, eq_finite, numbersHold]
    simp [Fp.isNan]
  rw [← hholds]
  simp [compareOutcome, Fp.isNan]

/-- FCR31 after a compare that is performed. -/
theorem fcr31_of_compare (f : Word) (c : Bool) :
    let g := orFcrFlags (setFcrCause (setFcrC f c) false 0) 0
    fcrC g = c ∧ fcrUnimp g = false ∧ fcrCause g = 0 ∧ g &&& 0xFF7C0FFF = f &&& 0xFF7C0FFF := by
  have hflags (g : Word) : orFcrFlags g 0 = g := BitVec.or_zero
  simp only [hflags]
  refine ⟨?_, fcrUnimp_setFcrCause _ _ _, fcrCause_setFcrCause _ _ _, ?_⟩
  · exact (bit_of_and_eq (z := 0x00800000) (setFcrCause_and rfl _ _ _) (by decide)).trans (fcrC_setFcrC f c)
  · exact (setFcrCause_and rfl _ _ _).trans (setBit_and rfl f c)

theorem fpCompares_fpCompare {s : State} (hready : FpaReady s) {fs ft : Reg} (hs : fs.getLsbD 0 = false)
    (ht : ft.getLsbD 0 = false) {d na nb : Bool} {ma mb : Nat} {ea eb : Int}
    (ha : (formatOf d).unpack (s.srcFp d fs) = .finite na ma ea)
    (hb : (formatOf d).unpack (s.srcFp d ft) = .finite nb mb eb) (cond : BitVec 4) (word : Word) :
    FpCompares s (fpCompare d cond word fs ft s) (numbersHold cond (fpValue na ma ea) (fpValue nb mb eb)) := by
  rw [fpCompare_of_even hready hs ht, ha, hb, compareOutcome_finite]
  cases numbersHold cond (fpValue na ma ea) (fpValue nb mb eb) <;>
  · obtain ⟨hc, hunimp, hcause, hrest⟩ := fcr31_of_compare s.fcr31 _
    exact ⟨_, fpDeliver_of_masked BitVec.zero_and _, hc, hunimp, hcause, hrest, fun _ => rfl, fun _ => rfl, rfl⟩

/-- Settles O55. -/
theorem fpCompareResult : Obligations.FpCompareResult := by
  intro s fs ft hready hs ht d na ma ea nb mb eb ha hb x y
  have ends (cond : BitVec 4) (word : Word) {c : Bool} (hc : numbersHold cond x y = c) :
      FpCompares s (fpCompare d cond word fs ft s) c :=
    hc ▸ fpCompares_fpCompare hready hs ht ha hb cond word
  have never : ∀ cond ∈ [(0 : BitVec 4), 1, 8, 9], numbersHold cond x y = false := by
    simp [numbersHold]
  have equal : ∀ cond ∈ [(2 : BitVec 4), 3, 10, 11], numbersHold cond x y = decide (x = y) := by
    simp [numbersHold]
  have less : ∀ cond ∈ [(4 : BitVec 4), 5, 12, 13], numbersHold cond x y = decide (x < y) := by
    simp [numbersHold]
  have lessEqual : ∀ cond ∈ [(6 : BitVec 4), 7, 14, 15], numbersHold cond x y = decide (x ≤ y) := by
    simp [numbersHold, le_iff_lt_or_eq]
  cases d <;>
  exact ⟨ends 0 _ (never _ (by decide)), ends 1 _ (never _ (by decide)), ends 2 _ (equal _ (by decide)),
    ends 3 _ (equal _ (by decide)), ends 4 _ (less _ (by decide)), ends 5 _ (less _ (by decide)),
    ends 6 _ (lessEqual _ (by decide)), ends 7 _ (lessEqual _ (by decide)), ends 8 _ (never _ (by decide)),
    ends 9 _ (never _ (by decide)), ends 10 _ (equal _ (by decide)), ends 11 _ (equal _ (by decide)),
    ends 12 _ (less _ (by decide)), ends 13 _ (less _ (by decide)), ends 14 _ (lessEqual _ (by decide)),
    ends 15 _ (lessEqual _ (by decide))⟩

end Sys2Proof.Proofs

/-! Rounding in the FPA: the integer an exact value rounds to, the significand `FpFormat.round` keeps, and the IEEE 754
result it delivers. -/

namespace Sys2Proof.Proofs

open Sys2Proof.Machine Sys2Proof.Laws

/-! ## The integer a value rounds to (10_state.md R76) -/

section Modes

variable {x : ℚ} {q : ℤ}

theorem roundsTo_nearest : RoundsTo 0 x q ↔ |x - q| ≤ 1 / 2 ∧ (|x - q| = 1 / 2 → q % 2 = 0) := Iff.rfl

theorem roundsTo_towardsZero : RoundsTo 1 x q ↔ q = if 0 ≤ x then ⌊x⌋ else ⌈x⌉ := Iff.rfl

theorem roundsTo_up : RoundsTo 2 x q ↔ q = ⌈x⌉ := Iff.rfl

theorem roundsTo_down : RoundsTo 3 x q ↔ q = ⌊x⌋ := Iff.rfl

end Modes

theorem roundingMode_cases (rm : BitVec 2) : rm = 0 ∨ rm = 1 ∨ rm = 2 ∨ rm = 3 := by
  revert rm; decide

theorem roundsTo_nearest_le {x : ℚ} {p q : ℤ} (hp : RoundsTo 0 x p) (hq : RoundsTo 0 x q) : q ≤ p := by
  obtain ⟨hp, hptie⟩ := roundsTo_nearest.mp hp
  obtain ⟨hq, hqtie⟩ := roundsTo_nearest.mp hq
  rw [abs_le] at hp hq
  by_contra hlt
  have hstep : (p : ℚ) + 1 ≤ q := by exact_mod_cast not_le.mp hlt
  have hxp : x - p = 1 / 2 := by linarith
  have hxq : x - q = -(1 / 2) := by linarith
  have hpq : q = p + 1 := by
    have : (q : ℚ) = p + 1 := by linarith
    exact_mod_cast this
  have hpeven := hptie (by rw [hxp]; norm_num)
  have hqeven := hqtie (by rw [hxq]; norm_num)
  omega

theorem roundsTo_unique {rm : BitVec 2} {x : ℚ} {p q : ℤ} (hp : RoundsTo rm x p) (hq : RoundsTo rm x q) : p = q := by
  rcases roundingMode_cases rm with rfl | rfl | rfl | rfl
  · exact le_antisymm (roundsTo_nearest_le hq hp) (roundsTo_nearest_le hp hq)
  all_goals exact hp.trans hq.symm

/-- An integer rounds to itself. -/
theorem roundsTo_intCast (rm : BitVec 2) (q : ℤ) : RoundsTo rm (q : ℚ) q := by
  rcases roundingMode_cases rm with rfl | rfl | rfl | rfl
  · exact roundsTo_nearest.mpr (by norm_num)
  · exact roundsTo_towardsZero.mpr (by simp)
  · exact roundsTo_up.mpr (by simp)
  · exact roundsTo_down.mpr (by simp)

/-- A magnitude with its sign. -/
def withSign (neg : Bool) (y : ℚ) : ℚ := if neg then -y else y

theorem signed_cast (neg : Bool) (m : Nat) : ((signed neg m : ℤ) : ℚ) = withSign neg m := by
  cases neg <;> simp [signed, withSign]

theorem withSign_mul (neg : Bool) (y z : ℚ) : withSign neg y * z = withSign neg (y * z) := by
  cases neg <;> simp [withSign]

theorem withSign_div (neg : Bool) (y z : ℚ) : withSign neg y / z = withSign neg (y / z) := by
  simp only [div_eq_mul_inv, withSign_mul]

theorem withSign_sub (neg : Bool) (y z : ℚ) : withSign neg y - withSign neg z = withSign neg (y - z) := by
  cases neg <;> simp only [withSign, if_true, if_false, Bool.false_eq_true]
  ring

theorem abs_withSign (neg : Bool) (y : ℚ) : |withSign neg y| = |y| := by
  cases neg <;> simp [withSign]

theorem withSign_inj {neg : Bool} {y z : ℚ} : withSign neg y = withSign neg z ↔ y = z := by
  cases neg <;> simp [withSign]

theorem fpValue_withSign (n : Bool) (m : Nat) (e : Int) : fpValue n m e = withSign n (m * (2 : ℚ) ^ e) := by
  rw [fpValue_eq, signed_cast, withSign_mul]

/-- The magnitude `k` and a fraction `φ` is rounded to `k + 1`. -/
def RoundsAway (rm : BitVec 2) (neg : Bool) (k : Nat) (φ : ℚ) : Prop :=
  φ ≠ 0 ∧ match rm.toNat with
    | 0 => 1 / 2 < φ ∨ (φ = 1 / 2 ∧ k % 2 = 1)
    | 1 => False
    | 2 => neg = false
    | _ => neg = true

section Fraction

variable {k : Nat} {φ : ℚ} (h0 : 0 ≤ φ) (h1 : φ < 1)

include h0 h1 in
theorem floor_add_fraction : ⌊(k : ℚ) + φ⌋ = k := by
  rw [Int.floor_eq_iff]
  push_cast
  exact ⟨by linarith, by linarith⟩

include h0 h1 in
theorem ceil_add_fraction : ⌈(k : ℚ) + φ⌉ = if φ = 0 then (k : ℤ) else k + 1 := by
  split
  · rename_i h
    simp [h]
  · rename_i h
    have hpos : 0 < φ := lt_of_le_of_ne h0 (Ne.symm h)
    rw [Int.ceil_eq_iff]
    push_cast
    exact ⟨by linarith, by linarith⟩

include h0 h1 in
theorem roundsTo_nearest_of_away {neg up : Bool} (hup : up = true ↔ RoundsAway 0 neg k φ) :
    RoundsTo 0 (withSign neg (k + φ)) (signed neg (if up then k + 1 else k)) := by
  have hup : up = true ↔ φ ≠ 0 ∧ (1 / 2 < φ ∨ (φ = 1 / 2 ∧ k % 2 = 1)) := hup
  have hparity (n : Nat) (hn : n % 2 = 0) : signed neg n % 2 = 0 := by
    cases neg <;> simp only [signed, if_true, if_false, Bool.false_eq_true] <;> omega
  rw [roundsTo_nearest, signed_cast, withSign_sub, abs_withSign]
  cases up with
  | true =>
    obtain ⟨-, hφ⟩ := hup.mp rfl
    have hdist : |(k : ℚ) + φ - (k + 1 : ℕ)| = 1 - φ := by
      rw [abs_of_neg (by push_cast; linarith)]
      push_cast
      ring
    rw [if_pos rfl, hdist]
    refine ⟨by rcases hφ with h | ⟨h, -⟩ <;> linarith, fun htie => hparity _ ?_⟩
    rcases hφ with h | ⟨-, h⟩
    · linarith
    · omega
  | false =>
    have hφ : ¬ (φ ≠ 0 ∧ (1 / 2 < φ ∨ (φ = 1 / 2 ∧ k % 2 = 1))) := fun h => Bool.false_ne_true (hup.mpr h)
    have hdist : |(k : ℚ) + φ - (k : ℕ)| = φ := by rw [add_sub_cancel_left, abs_of_nonneg h0]
    rw [if_neg Bool.false_ne_true, hdist]
    refine ⟨?_, fun htie => hparity _ ?_⟩
    · by_contra h
      exact hφ ⟨by linarith, .inl (not_le.mp h)⟩
    · by_contra h
      exact hφ ⟨by rw [htie]; norm_num, .inr ⟨htie, by omega⟩⟩

include h0 h1 in
/-- Whether the magnitude is incremented decides what the signed value rounds to. -/
theorem roundsTo_of_away {rm : BitVec 2} {neg up : Bool} (hup : up = true ↔ RoundsAway rm neg k φ) :
    RoundsTo rm (withSign neg (k + φ)) (signed neg (if up then k + 1 else k)) := by
  have hfloor := floor_add_fraction (k := k) h0 h1
  have hceil := ceil_add_fraction (k := k) h0 h1
  rcases roundingMode_cases rm with rfl | rfl | rfl | rfl
  · exact roundsTo_nearest_of_away h0 h1 hup
  · have hup : up = false := Bool.eq_false_iff.mpr fun h => (hup.mp h).2
    rw [roundsTo_towardsZero, hup]
    cases neg <;> simp only [withSign, signed, if_true, if_false, Bool.false_eq_true]
    · rw [if_pos (by positivity), hfloor]
    · rw [Int.floor_neg, Int.ceil_neg, hfloor, hceil]
      split
      · rename_i h
        rw [if_pos (by linarith [(Nat.cast_nonneg k : (0 : ℚ) ≤ k)])]
      · rfl
  · have hup : up = true ↔ φ ≠ 0 ∧ neg = false := hup
    rw [roundsTo_up]
    cases neg <;> simp only [withSign, signed, if_true, if_false, Bool.false_eq_true]
    · rw [hceil]
      by_cases h : φ = 0 <;> simp_all
    · rw [Int.ceil_neg, hfloor]
      simp_all
  · have hup : up = true ↔ φ ≠ 0 ∧ neg = true := hup
    rw [roundsTo_down]
    cases neg <;> simp only [withSign, signed, if_true, if_false, Bool.false_eq_true]
    · rw [hfloor]
      simp_all
    · rw [Int.floor_neg, hceil]
      by_cases h : φ = 0 <;> simp_all

end Fraction

/-! ## Dropping bits of an exact magnitude (R378) -/

/-- `y` is `m` and a remainder below 1, which is not 0 exactly when `sticky`. -/
def IsMagnitude (m : Nat) (sticky : Bool) (y : ℚ) : Prop := m ≤ y ∧ y < m + 1 ∧ (sticky = false ↔ y = m)

theorem isMagnitude_natCast (m : Nat) : IsMagnitude m false m := ⟨le_rfl, by linarith, by simp⟩

/-- A quotient of naturals: the whole part, and whether there is a remainder. -/
theorem isMagnitude_div (n : Nat) {d : Nat} (hd : 0 < d) : IsMagnitude (n / d) (n % d != 0) (n / d : ℚ) := by
  have hd' : (0 : ℚ) < d := by exact_mod_cast hd
  have hsplit : (n : ℚ) = (n / d : ℕ) * d + (n % d : ℕ) := by exact_mod_cast (Nat.div_add_mod' n d).symm
  have hmod : ((n % d : ℕ) : ℚ) < d := by exact_mod_cast Nat.mod_lt n hd
  refine ⟨?_, ?_, ?_⟩
  · rw [le_div_iff₀ hd', hsplit]
    simp
  · rw [div_lt_iff₀ hd', hsplit]
    linarith
  · rw [div_eq_iff hd'.ne', hsplit]
    simp

/-- Comparing what is dropped with half a unit takes the dropped bits and whether anything lies below them: half of an
even number is not reached by a remainder below 1. -/
theorem half_unit_cmp {r p : Nat} {δ : ℚ} (h0 : 0 ≤ δ) (h1 : δ < 1) (heven : δ ≠ 0 → p % 2 = 0) :
    ((p : ℚ) < 2 * (r + δ) ↔ p < 2 * r ∨ (2 * r = p ∧ δ ≠ 0)) ∧ ((p : ℚ) = 2 * (r + δ) ↔ 2 * r = p ∧ δ = 0) := by
  by_cases hδ : δ = 0
  · subst hδ
    simp only [add_zero, ne_eq, not_true_eq_false, and_false, or_false, and_true]
    exact ⟨by exact_mod_cast Iff.rfl, by rw [eq_comm]; exact_mod_cast Iff.rfl⟩
  have hpos : 0 < δ := lt_of_le_of_ne h0 (Ne.symm hδ)
  have hp := heven hδ
  rcases Nat.lt_or_ge (2 * r) p with hlt | hge
  · have hstep : (2 * r + 2 : ℚ) ≤ p := by exact_mod_cast (by omega : 2 * r + 2 ≤ p)
    refine ⟨iff_of_false (by linarith) (by omega), iff_of_false (by linarith) (by omega)⟩
  · have hstep : (p : ℚ) ≤ 2 * r := by exact_mod_cast hge
    refine ⟨iff_of_true (by linarith) ?_, iff_of_false (by linarith) (by simp [hδ])⟩
    simp only [ne_eq, hδ, not_false_eq_true, and_true]
    omega

/-- The fraction that dropping `k` bits of a magnitude cuts off. -/
theorem magnitude_split {m : Nat} {sticky : Bool} {y : ℚ} (hy : IsMagnitude m sticky y) (k : Nat) :
    ∃ δ : ℚ, 0 ≤ δ ∧ δ < 1 ∧ (sticky = false ↔ δ = 0) ∧
      y / 2 ^ k = (m / 2 ^ k : ℕ) + ((m % 2 ^ k : ℕ) + δ) / (2 ^ k : ℕ) := by
  obtain ⟨hle, hlt, hexact⟩ := hy
  refine ⟨y - m, by linarith, by linarith, by rw [hexact, sub_eq_zero], ?_⟩
  have hm : (m : ℚ) = (m / 2 ^ k : ℕ) * 2 ^ k + (m % 2 ^ k : ℕ) := by exact_mod_cast (Nat.div_add_mod' m (2 ^ k)).symm
  have hsum : y = (m / 2 ^ k : ℕ) * 2 ^ k + ((m % 2 ^ k : ℕ) + (y - m)) := by linarith
  conv_lhs => rw [hsum]
  push_cast
  field_simp

theorem fraction_bounds {r p : Nat} {δ : ℚ} (h0 : 0 ≤ δ) (h1 : δ < 1) (hr : r < p) :
    0 ≤ (r + δ) / p ∧ (r + δ) / p < 1 := by
  have hp : (0 : ℚ) < p := by exact_mod_cast (by omega : 0 < p)
  have hstep : (r : ℚ) + 1 ≤ p := by exact_mod_cast hr
  exact ⟨by positivity, by rw [div_lt_one hp]; linarith⟩

/-- `roundsUp` decides by the dropped bits what the rounding mode says of the fraction. -/
theorem roundsUp_iff {rm : BitVec 2} {neg sticky : Bool} {q r p : Nat} {δ : ℚ} (hp : 0 < p) (h0 : 0 ≤ δ) (h1 : δ < 1)
    (hsticky : sticky = false ↔ δ = 0) (heven : sticky = true → p % 2 = 0) :
    roundsUp rm neg (q % 2 == 1) (2 * r) p sticky = true ↔ RoundsAway rm neg q ((r + δ) / p) := by
  have hp' : (0 : ℚ) < p := by exact_mod_cast hp
  have hcut : (r + δ) / p = 0 ↔ 2 * r = 0 ∧ sticky = false := by
    rw [div_eq_zero_iff, or_iff_left hp'.ne', hsticky, add_eq_zero_iff_of_nonneg (Nat.cast_nonneg r) h0,
      Nat.cast_eq_zero]
    simp
  obtain ⟨hgt, heq⟩ := half_unit_cmp (r := r) (p := p) h0 h1 fun h => heven (by simpa [← hsticky] using h)
  have hgt : 1 / 2 < (r + δ) / p ↔ p < 2 * r ∨ (2 * r = p ∧ δ ≠ 0) := by
    rw [← hgt, div_lt_div_iff₀ two_pos hp']
    constructor <;> intro h <;> linarith
  have heq : (r + δ) / p = 1 / 2 ↔ 2 * r = p ∧ δ = 0 := by
    rw [← heq, div_eq_div_iff hp'.ne' two_ne_zero]
    constructor <;> intro h <;> linarith
  unfold roundsUp RoundsAway
  rw [ne_eq, hcut]
  by_cases hzero : 2 * r = 0 ∧ sticky = false
  · simp [hzero]
  rw [if_neg hzero, and_iff_right hzero]
  rcases roundingMode_cases rm with rfl | rfl | rfl | rfl
  · show (decide (p < 2 * r) || (2 * r == p && (sticky || q % 2 == 1))) = true ↔ _ ∨ _
    rw [hgt, heq, ← hsticky, ne_eq, ← hsticky]
    cases sticky <;> simp
  · simp
  · simp
  · simp

/-- Dropping bits rounds the signed magnitude; the sticky bit needs a dropped bit above it. -/
theorem roundsTo_roundShift (rm : BitVec 2) (neg : Bool) {m : Nat} {sticky : Bool} {y : ℚ}
    (hy : IsMagnitude m sticky y) {k : Nat} (hk : sticky = true → 0 < k) :
    RoundsTo rm (withSign neg (y / 2 ^ k)) (signed neg (roundShift rm neg m k sticky)) := by
  obtain ⟨δ, h0, h1, hsticky, hsplit⟩ := magnitude_split hy k
  have hpow : 0 < 2 ^ k := by positivity
  have heven : sticky = true → 2 ^ k % 2 = 0 := fun h => Nat.mod_eq_zero_of_dvd (dvd_pow_self 2 (hk h).ne')
  obtain ⟨hφ0, hφ1⟩ := fraction_bounds h0 h1 (Nat.mod_lt m hpow)
  rw [hsplit]
  exact roundsTo_of_away hφ0 hφ1 (roundsUp_iff hpow h0 h1 hsticky heven)

/-! ## The significand `FpFormat.round` keeps (R373, R378) -/

/-- The significand of `f` for a magnitude, dropped bits rounded and missing ones zeros. -/
def roundedSignificand (f : FpFormat) (rm : BitVec 2) (neg : Bool) (m : Nat) (sticky : Bool) : Nat :=
  roundShift rm neg m (droppedBits f m) sticky * 2 ^ (f.mant + 1 - (Nat.log2 m + 1))

theorem roundShift_bounds (rm : BitVec 2) (neg : Bool) (m k : Nat) (sticky : Bool) :
    m / 2 ^ k ≤ roundShift rm neg m k sticky ∧ roundShift rm neg m k sticky ≤ m / 2 ^ k + 1 := by
  unfold roundShift
  dsimp only
  split <;> omega

/-- `m` has `f.mant + 1` bits and those that are dropped, or fewer than `f.mant + 1`. -/
theorem bits_of_log2 (f : FpFormat) (m : Nat) :
    (Nat.log2 m = f.mant + droppedBits f m ∧ f.mant + 1 - (Nat.log2 m + 1) = 0) ∨
      (droppedBits f m = 0 ∧ Nat.log2 m + (f.mant + 1 - (Nat.log2 m + 1)) = f.mant) := by
  unfold droppedBits; omega

section Rounded

variable (f : FpFormat) (rm : BitVec 2) (neg : Bool) {m : Nat} {sticky : Bool} {y : ℚ}

/-- A magnitude no bit of which is dropped is exact, when a sticky bit needs one. -/
theorem sticky_of_droppedBits_zero (hsticky : sticky = true → 0 < droppedBits f m) (h : droppedBits f m = 0) :
    sticky = false := by
  cases sticky with
  | false => rfl
  | true => exact absurd h (hsticky rfl).ne'

theorem roundShift_zero_bits (m : Nat) : roundShift rm neg m 0 false = m := by
  rw [roundShift_of_exact rm neg (Nat.mod_one m), pow_zero, Nat.div_one]

theorem roundedSignificand_bounds (hm : 0 < m) (hsticky : sticky = true → 0 < droppedBits f m) :
    2 ^ f.mant ≤ roundedSignificand f rm neg m sticky ∧ roundedSignificand f rm neg m sticky ≤ 2 ^ (f.mant + 1) := by
  have hlow : 2 ^ Nat.log2 m ≤ m := Nat.log2_self_le hm.ne'
  have hhigh : m < 2 ^ (Nat.log2 m + 1) := Nat.lt_log2_self
  unfold roundedSignificand
  rcases bits_of_log2 f m with ⟨hlen, hlift⟩ | ⟨hdrop, hlift⟩
  · obtain ⟨hle, hge⟩ := roundShift_bounds rm neg m (droppedBits f m) sticky
    have hquot : 2 ^ f.mant ≤ m / 2 ^ droppedBits f m := by
      rw [Nat.le_div_iff_mul_le (by positivity), ← Nat.pow_add, ← hlen]
      exact hlow
    have hquot' : m / 2 ^ droppedBits f m < 2 ^ (f.mant + 1) := by
      rw [Nat.div_lt_iff_lt_mul (by positivity), ← Nat.pow_add,
        show f.mant + 1 + droppedBits f m = Nat.log2 m + 1 by omega]
      exact hhigh
    rw [hlift]
    omega
  · rw [hdrop, sticky_of_droppedBits_zero f hsticky hdrop, roundShift_zero_bits]
    generalize f.mant + 1 - (Nat.log2 m + 1) = lift at hlift ⊢
    rw [← hlift, Nat.pow_add, Nat.add_right_comm, Nat.pow_add]
    exact ⟨Nat.mul_le_mul_right _ hlow, Nat.mul_le_mul_right _ hhigh.le⟩

/-- The unit of the significand's last place. -/
theorem unit_of_dropped (e : Int) :
    (2 : ℚ) ^ (topExponent m e - f.mant) * 2 ^ (f.mant + 1 - (Nat.log2 m + 1)) = 2 ^ e * 2 ^ droppedBits f m := by
  rw [← zpow_natCast, ← zpow_natCast, ← zpow_add₀ two_ne_zero, ← zpow_add₀ two_ne_zero]
  congr 1
  unfold topExponent droppedBits
  omega

/-- The exact value in units of the last place rounds to the significand. -/
theorem roundsTo_roundedSignificand (hy : IsMagnitude m sticky y) (hsticky : sticky = true → 0 < droppedBits f m)
    (e : Int) : RoundsTo rm (withSign neg (y * 2 ^ e) / 2 ^ (topExponent m e - f.mant))
      (signed neg (roundedSignificand f rm neg m sticky)) := by
  have hunit := unit_of_dropped f (m := m) e
  have hpos : (0 : ℚ) < 2 ^ (topExponent m e - f.mant) := by positivity
  rw [withSign_div]
  unfold roundedSignificand
  rcases bits_of_log2 f m with ⟨-, hlift⟩ | ⟨hdrop, -⟩
  · rw [hlift, pow_zero, mul_one] at hunit
    have hcancel : y * 2 ^ e / (2 ^ e * 2 ^ droppedBits f m) = y / 2 ^ droppedBits f m := by field_simp
    rw [hlift, pow_zero, mul_one, hunit, hcancel]
    exact roundsTo_roundShift rm neg hy hsticky
  · have hexact := sticky_of_droppedBits_zero f hsticky hdrop
    have hym : y = m := hy.2.2.mp hexact
    rw [hdrop, pow_zero, mul_one] at hunit
    have hint : y * 2 ^ e / 2 ^ (topExponent m e - f.mant) = (m * 2 ^ (f.mant + 1 - (Nat.log2 m + 1)) : ℕ) := by
      rw [div_eq_iff hpos.ne', hym, ← hunit]
      push_cast
      ring
    rw [hdrop, hexact, roundShift_zero_bits, hint, ← signed_cast]
    exact roundsTo_intCast rm _

/-- The only integer with the whole part `m` is `m`, without a remainder. -/
theorem eq_of_isMagnitude_natCast {n : Nat} (h : IsMagnitude m sticky n) : n = m ∧ sticky = false := by
  obtain ⟨hle, hlt, hexact⟩ := h
  have hle : m ≤ n := by exact_mod_cast hle
  have hlt : n < m + 1 := by exact_mod_cast hlt
  have hnm : n = m := by omega
  exact ⟨hnm, hexact.mpr (by rw [hnm])⟩

/-- The significand is the exact value exactly when nothing is dropped. -/
theorem roundedSignificand_exact_iff (hy : IsMagnitude m sticky y) (hsticky : sticky = true → 0 < droppedBits f m)
    (e : Int) : roundedSignificand f rm neg m sticky * (2 : ℚ) ^ (topExponent m e - f.mant) = y * 2 ^ e ↔
      m % 2 ^ droppedBits f m = 0 ∧ sticky = false := by
  constructor
  · intro h
    rcases bits_of_log2 f m with ⟨-, hlift⟩ | ⟨hdrop, -⟩
    · have hunit := unit_of_dropped f (m := m) e
      rw [hlift, pow_zero, mul_one] at hunit
      unfold roundedSignificand at h
      rw [hlift, pow_zero, mul_one, hunit] at h
      have hint : y = (roundShift rm neg m (droppedBits f m) sticky * 2 ^ droppedBits f m : ℕ) := by
        have hpos : (2 : ℚ) ^ e ≠ 0 := by positivity
        refine mul_right_cancel₀ hpos ?_
        rw [← h]
        push_cast
        ring
      obtain ⟨hm, hexact⟩ := eq_of_isMagnitude_natCast (hint ▸ hy)
      exact ⟨Nat.mod_eq_zero_of_dvd (Dvd.intro_left _ hm), hexact⟩
    · exact ⟨by rw [hdrop, pow_zero, Nat.mod_one], sticky_of_droppedBits_zero f hsticky hdrop⟩
  · rintro ⟨hmod, rfl⟩
    have hsig : roundedSignificand f rm neg m false = significand f m :=
      congrArg (· * _) (roundShift_of_exact rm neg hmod)
    rw [hsig, significand_value hmod, hy.2.2.mp rfl]

end Rounded

/-! ## The bits of a result (R373, R378) -/

/-- A format that fits 64 bits and has normalized numbers. -/
def Fits (f : FpFormat) : Prop := f.mant + f.expo < 64 ∧ 1 < f.expo

theorem formatOf_fits (d : Bool) : Fits (formatOf d) := by
  cases d <;> exact ⟨by decide, by decide⟩

section Bits

variable {f : FpFormat} (hf : Fits f)

include hf in
theorem maxField_eq : f.maxField = 2 * f.bias + 1 ∧ 0 < f.bias := by
  obtain ⟨-, hexpo⟩ := hf
  have hsplit : 2 ^ f.expo = 2 * 2 ^ (f.expo - 1) := by
    rw [← Nat.pow_succ', Nat.succ_eq_add_one, Nat.sub_add_cancel hexpo.le]
  have htwo : 2 ^ 1 ≤ 2 ^ (f.expo - 1) := Nat.pow_le_pow_right (by decide) (by omega)
  unfold FpFormat.maxField FpFormat.bias
  omega

include hf in
/-- The fields of a packed word, whatever they are. -/
theorem unpack_pack_fields (neg : Bool) {e m : Nat} (he : e < 2 ^ f.expo) (hm : m < 2 ^ f.mant) :
    f.unpack (f.pack neg e m) =
      if e = 0 then (if m = 0 then .finite neg 0 0 else .denormal)
      else if e = f.maxField then
        (if m = 0 then .inf neg else if m / 2 ^ (f.mant - 1) = 1 then .signallingNan else .quietNan)
      else .finite neg (2 ^ f.mant + m) ((e : Int) - f.bias - f.mant) := by
  obtain ⟨hmant, hexpo, hsign⟩ := fields_of_sum (hi := if neg then 1 else 0) hm he
  have hneg : ((if neg then 1 else 0) % 2 == 1) = neg := by cases neg <;> rfl
  unfold FpFormat.unpack
  simp only [pack_toNat hf.1 neg he hm, hmant, hexpo, hsign, hneg]

include hf in
theorem unpack_zero (neg : Bool) : f.unpack (f.zero neg) = .finite neg 0 0 := by
  rw [FpFormat.zero, unpack_pack_fields hf neg (by positivity) (by positivity), if_pos rfl, if_pos rfl]

include hf in
theorem unpack_infinity (neg : Bool) : f.unpack (f.infinity neg) = .inf neg := by
  have hmax := maxField_eq hf
  have hfield : f.maxField < 2 ^ f.expo := Nat.sub_lt (by positivity) (by decide)
  rw [FpFormat.infinity, unpack_pack_fields hf neg hfield (by positivity), if_neg (by omega), if_pos rfl, if_pos rfl]

include hf in
theorem unpack_largest (neg : Bool) :
    f.unpack (f.largest neg) = .finite neg (2 ^ (f.mant + 1) - 1) (f.emax - f.mant) := by
  have hmax := maxField_eq hf
  have hpow : 0 < 2 ^ f.mant := by positivity
  rw [FpFormat.largest, unpack_pack hf.1 neg (by omega) (by omega) (by omega), FpFormat.emax, Nat.pow_succ]
  congr 1 <;> omega

/-- What an overflow delivers, by whether the mode rounds it away from zero. -/
theorem overflow_eq (rm : BitVec 2) (neg : Bool) :
    f.overflow rm neg =
      if rm = 0 ∨ (rm = 2 ∧ neg = false) ∨ (rm = 3 ∧ neg = true) then f.infinity neg else f.largest neg := by
  rcases roundingMode_cases rm with rfl | rfl | rfl | rfl <;> cases neg <;> rfl

include hf in
theorem holdsOverflow_overflow (rm : BitVec 2) {neg : Bool} {x : ℚ} (hx : x ≠ 0) (hneg : decide (x < 0) = neg) :
    HoldsOverflow f rm (f.overflow rm neg) x := by
  have hminus : x < 0 ↔ neg = true := by rw [← hneg, decide_eq_true_iff]
  have hplus : 0 < x ↔ neg = false := by
    rw [← Bool.not_eq_true, ← hminus, not_lt]
    exact ⟨le_of_lt, fun h => lt_of_le_of_ne h (Ne.symm hx)⟩
  simp only [HoldsOverflow, overflow_eq, hplus, hminus, Bool.decide_eq_true]
  split
  · exact unpack_infinity hf neg
  · exact ⟨_, _, _, unpack_largest hf neg, rfl⟩

include hf in
/-- A significand of `f.mant + 1` bits with its leading bit at `t`. -/
theorem holdsNumber_pack (neg : Bool) {q : Nat} {t : Int} (hlow : 2 ^ f.mant ≤ q) (hhigh : q < 2 ^ (f.mant + 1))
    (hmin : f.emin ≤ t) (hmax : t ≤ f.emax) :
    HoldsNumber f (f.pack neg (t + f.bias).toNat (q - 2 ^ f.mant)) (withSign neg (q * 2 ^ (t - f.mant))) := by
  have hfield := maxField_eq hf
  unfold FpFormat.emin at hmin
  unfold FpFormat.emax at hmax
  refine ⟨_, _, _, unpack_pack hf.1 neg (by omega) (by omega) (by rw [Nat.pow_succ] at hhigh; omega), ?_⟩
  rw [Nat.add_sub_cancel' hlow, Int.toNat_of_nonneg (by omega), add_sub_cancel_right, fpValue_withSign]

end Bits

theorem abs_signed (neg : Bool) (n : Nat) : |signed neg n| = (n : ℤ) := by
  cases neg <;> simp [signed]

/-! ## What `FpFormat.round` answers (R378, R379) -/

section Round

variable {f : FpFormat} {rm : BitVec 2} {tiny neg sticky : Bool} {m : Nat} {e : Int} {y : ℚ}

/-- The exceptions of a result that does not overflow. -/
def inexactExc (f : FpFormat) (m : Nat) (sticky : Bool) : BitVec 5 :=
  if m % 2 ^ droppedBits f m != 0 || sticky then excI else excNone

theorem inexactExc_eq {p : Prop} [Decidable p] (hp : p ↔ m % 2 ^ droppedBits f m = 0 ∧ sticky = false) :
    inexactExc f m sticky = if p then 0 else excI := by
  have hinexact : (m % 2 ^ droppedBits f m != 0 || sticky) = true ↔ ¬ p := by
    rw [hp]
    cases sticky <;> simp
  unfold inexactExc
  by_cases h : p
  · rw [if_neg (fun hi => hinexact.mp hi h), if_pos h]
    rfl
  · rw [if_pos (hinexact.mpr h), if_neg h]

/-- A significand with its leading bit at `t` is packed by its fraction, or it is an overflow. -/
def packOrOverflow (f : FpFormat) (rm : BitVec 2) (neg : Bool) (t : Int) (frac : Nat) (exc : BitVec 5) : FpOutcome :=
  if f.emax < t then .must (f.overflow rm neg) (excO ||| excI) else .must (f.pack neg (t + f.bias).toNat frac) exc

/-- Among the normalized numbers the significand is packed, one place up when rounding carried out of it. -/
theorem round_of_normal (htop : f.emin ≤ topExponent m e) :
    f.round rm tiny neg m e sticky =
      let q := roundedSignificand f rm neg m sticky
      let carried := q == 2 ^ (f.mant + 1)
      packOrOverflow f rm neg (if carried then topExponent m e + 1 else topExponent m e)
        (if carried then 0 else q - 2 ^ f.mant) (inexactExc f m sticky) := by
  unfold FpFormat.round
  exact if_neg (not_lt.mpr htop)

/-- A power of two in units of the last place of a significand of `n + 1` bits with its leading bit at `t`. -/
theorem pow_mul_unit (n k : ℕ) (t : ℤ) : (2 : ℚ) ^ (n + k) * 2 ^ (t - n) = 2 ^ (t + k) := by
  rw [← zpow_natCast, ← zpow_add₀ two_ne_zero]
  congr 1
  push_cast
  ring

/-- The exact value lies in the binade of its leading bit. -/
theorem magnitude_bounds (hm : 0 < m) (hy : IsMagnitude m sticky y) (e : Int) :
    (2 : ℚ) ^ topExponent m e ≤ y * 2 ^ e ∧ y * 2 ^ e < 2 ^ (topExponent m e + 1) := by
  obtain ⟨hle, hlt, -⟩ := hy
  have hlow : (2 : ℚ) ^ Nat.log2 m ≤ m := by exact_mod_cast Nat.log2_self_le hm.ne'
  have hhigh : (m : ℚ) + 1 ≤ 2 ^ (Nat.log2 m + 1) := by exact_mod_cast Nat.lt_log2_self
  have htop : topExponent m e = (Nat.log2 m : ℕ) + e := by unfold topExponent; push_cast; ring
  have hpos : (0 : ℚ) < 2 ^ e := by positivity
  rw [htop, show (Nat.log2 m : ℤ) + e + 1 = (Nat.log2 m + 1 : ℕ) + e by push_cast; ring, zpow_add₀ two_ne_zero,
    zpow_add₀ two_ne_zero, zpow_natCast, zpow_natCast]
  exact ⟨mul_le_mul_of_nonneg_right (hlow.trans hle) hpos.le, mul_lt_mul_of_pos_right (hlt.trans_le hhigh) hpos⟩

/-- Where the value of the significand `q` with its leading bit at `t` is below the format's bound, the word packed for
it holds it, else the result has overflowed. -/
theorem packOrOverflow_spec (hf : Fits f) (rm : BitVec 2) (neg : Bool) {t : Int} (hmin : f.emin ≤ t) {q : Nat}
    (hlow : 2 ^ f.mant ≤ q) (hhigh : q < 2 ^ (f.mant + 1)) (exc : BitVec 5) :
    ∃ v exc', packOrOverflow f rm neg t (q - 2 ^ f.mant) exc = .must v exc' ∧
      if (q : ℚ) * 2 ^ (t - f.mant) < 2 ^ (f.emax + 1) then
        HoldsNumber f v (withSign neg (q * 2 ^ (t - f.mant))) ∧ exc' = exc
      else v = f.overflow rm neg ∧ exc' = excO ||| excI := by
  have hunit : (0 : ℚ) < 2 ^ (t - f.mant) := by positivity
  have hbinade : (2 : ℚ) ^ t ≤ q * 2 ^ (t - f.mant) ∧ (q : ℚ) * 2 ^ (t - f.mant) < 2 ^ (t + 1) := by
    have hlow : (2 : ℚ) ^ f.mant ≤ q := by exact_mod_cast hlow
    have hhigh : (q : ℚ) < 2 ^ (f.mant + 1) := by exact_mod_cast hhigh
    have hbottom := pow_mul_unit f.mant 0 t
    have htop := pow_mul_unit f.mant 1 t
    rw [add_zero, Nat.cast_zero, add_zero] at hbottom
    rw [Nat.cast_one] at htop
    rw [← hbottom, ← htop]
    exact ⟨mul_le_mul_of_nonneg_right hlow hunit.le, mul_lt_mul_of_pos_right hhigh hunit⟩
  unfold packOrOverflow
  by_cases hmax : f.emax < t
  · have hover : ¬ (q : ℚ) * 2 ^ (t - f.mant) < 2 ^ (f.emax + 1) :=
      not_lt.mpr ((zpow_le_zpow_right₀ one_le_two (by omega)).trans hbinade.1)
    exact ⟨_, _, if_pos hmax, by rw [if_neg hover]; exact ⟨rfl, rfl⟩⟩
  · have hfits : (q : ℚ) * 2 ^ (t - f.mant) < 2 ^ (f.emax + 1) :=
      hbinade.2.trans_le (zpow_le_zpow_right₀ one_le_two (by omega))
    refine ⟨_, _, if_neg hmax, ?_⟩
    rw [if_pos hfits]
    exact ⟨holdsNumber_pack hf neg hlow hhigh hmin (not_lt.mp hmax), rfl⟩

/-- What `FpFormat.round` delivers among the normalized numbers: the value of the significand, or an overflow. -/
theorem round_spec (hf : Fits f) (hm : 0 < m) (hsticky : sticky = true → 0 < droppedBits f m)
    (htop : f.emin ≤ topExponent m e) :
    ∃ v exc, f.round rm tiny neg m e sticky = .must v exc ∧
      let z : ℚ := roundedSignificand f rm neg m sticky * 2 ^ (topExponent m e - f.mant)
      if z < 2 ^ (f.emax + 1) then HoldsNumber f v (withSign neg z) ∧ exc = inexactExc f m sticky
      else v = f.overflow rm neg ∧ exc = excO ||| excI := by
  obtain ⟨hlow, hhigh⟩ := roundedSignificand_bounds f rm neg hm hsticky
  rw [round_of_normal htop]
  by_cases hcarry : roundedSignificand f rm neg m sticky = 2 ^ (f.mant + 1)
  · have hvalue : ((2 ^ (f.mant + 1) : ℕ) : ℚ) * 2 ^ (topExponent m e - f.mant) =
        (2 ^ f.mant : ℕ) * 2 ^ (topExponent m e + 1 - f.mant) := by
      rw [show topExponent m e + 1 - f.mant = 1 + (topExponent m e - f.mant) by ring, zpow_add₀ two_ne_zero, zpow_one]
      push_cast
      ring
    have hcarried : (2 ^ (f.mant + 1) == 2 ^ (f.mant + 1)) = true := beq_self_eq_true _
    simp only [hcarry, hcarried, if_true, hvalue, ← Nat.sub_self (2 ^ f.mant)]
    exact packOrOverflow_spec hf rm neg (by omega) le_rfl (Nat.pow_lt_pow_right (by decide) (by omega)) _
  · simp only [beq_eq_false_iff_ne.mpr hcarry, if_false, Bool.false_eq_true]
    exact packOrOverflow_spec hf rm neg htop hlow (lt_of_le_of_ne hhigh hcarry) _

/-- Among the normalized numbers `FpFormat.round` delivers the IEEE 754 result. -/
theorem ieeeResult_round (hf : Fits f) (hm : 0 < m) (hy : IsMagnitude m sticky y)
    (hsticky : sticky = true → 0 < droppedBits f m) (htop : f.emin ≤ topExponent m e) (zeroNeg : Bool) :
    ∃ v exc, f.round rm tiny neg m e sticky = .must v exc ∧
      IeeeResult f rm zeroNeg (withSign neg (y * 2 ^ e)) v exc := by
  obtain ⟨v, exc, hround, hspec⟩ := round_spec (rm := rm) (tiny := tiny) (neg := neg) hf hm hsticky htop
  refine ⟨v, exc, hround, ?_⟩
  obtain ⟨hlow, hhigh⟩ := magnitude_bounds hm hy e
  have hpos : 0 < y * 2 ^ e := lt_of_lt_of_le (by positivity) hlow
  have hne : withSign neg (y * 2 ^ e) ≠ 0 := by rw [← abs_pos, abs_withSign]; exact abs_pos.mpr hpos.ne'
  have hneg : decide (withSign neg (y * 2 ^ e) < 0) = neg := by
    cases neg
    · exact decide_eq_false (not_lt.mpr hpos.le)
    · exact decide_eq_true (neg_lt_zero.mpr hpos)
  unfold IeeeResult
  rw [if_neg hne]
  refine ⟨topExponent m e - f.mant, signed neg (roundedSignificand f rm neg m sticky), ?_, ?_,
    roundsTo_roundedSignificand f rm neg hy hsticky e, ?_⟩
  · rw [abs_withSign, abs_of_pos hpos]
    simpa using (pow_mul_unit f.mant 0 (topExponent m e)).le.trans (by simpa using hlow)
  · rw [abs_withSign, abs_of_pos hpos, pow_mul_unit f.mant 1]
    exact hhigh
  · simp only [signed_cast, abs_withSign, withSign_mul, withSign_inj, Nat.abs_cast]
    rw [← inexactExc_eq (roundedSignificand_exact_iff f rm neg hy hsticky e)]
    dsimp only at hspec
    split at hspec
    · rename_i hfits
      rw [if_pos hfits]
      exact hspec
    · rename_i hover
      obtain ⟨rfl, hexc⟩ := hspec
      rw [if_neg hover]
      exact ⟨holdsOverflow_overflow hf rm hne hneg, hexc⟩

/-- Below the normalized numbers `FpFormat.round` declines what does not round up to the smallest of them. -/
theorem round_of_underflow (hy : IsMagnitude m sticky y) (hsticky : sticky = true → 0 < droppedBits f m)
    (htop : topExponent m e < f.emin) {q : ℤ}
    (hq : RoundsTo rm (withSign neg (y * 2 ^ e) / 2 ^ (f.emin - f.mant)) q) (hlt : |q| < 2 ^ f.mant) :
    f.round rm tiny neg m e sticky = .decline := by
  have hlen : (droppedBits f m : ℤ) ≤ f.emin - f.mant - e ∨
      f.emin - f.mant - e < 0 ∧ droppedBits f m = 0 ∧ Nat.log2 m + 1 ≤ f.mant := by
    unfold topExponent at htop
    unfold droppedBits
    omega
  have hne : roundShift rm neg m (f.emin - f.mant - e).toNat sticky ≠ 2 ^ f.mant := by
    rcases hlen with hbits | ⟨hnone, hdrop, hshort⟩
    · have hunit : (2 : ℚ) ^ (f.emin - f.mant) = 2 ^ e * 2 ^ (f.emin - f.mant - e).toNat := by
        rw [← zpow_natCast, ← zpow_add₀ two_ne_zero]
        congr 1
        omega
      have hscale : y * 2 ^ e / (2 ^ e * 2 ^ (f.emin - f.mant - e).toNat) = y / 2 ^ (f.emin - f.mant - e).toNat := by
        field_simp
      rw [withSign_div, hunit, hscale] at hq
      have hround := roundsTo_unique hq (roundsTo_roundShift rm neg hy fun h => by have := hsticky h; omega)
      rw [hround, abs_signed] at hlt
      exact_mod_cast hlt.ne
    · rw [Int.toNat_of_nonpos hnone.le, sticky_of_droppedBits_zero f hsticky hdrop, roundShift_zero_bits]
      exact (Nat.lt_log2_self.trans_le (Nat.pow_le_pow_right (by decide) hshort)).ne
  unfold FpFormat.round
  exact (if_pos htop).trans (if_neg hne)

end Round

end Sys2Proof.Proofs

/-! The arithmetic and the conversions of the FPA: each operation answers with the IEEE 754 result of its exact value,
and the instruction delivers it, traps or declines. -/

namespace Sys2Proof.Proofs

open Sys2Proof.Machine Sys2Proof.Laws

/-! ## Outcomes (R378, R379) -/

/-- `o` is what the FPA must answer for the exact value `x`: the IEEE 754 result of a zero or of a value among the
normalized numbers, and it declines a value below them that does not round up to the smallest. -/
def IeeeOutcome (f : FpFormat) (rm : BitVec 2) (zeroNeg : Bool) (x : ℚ) (o : FpOutcome) : Prop :=
  ((x = 0 ∨ (2 : ℚ) ^ f.emin ≤ |x|) → ∃ v exc, o = .must v exc ∧ IeeeResult f rm zeroNeg x v exc) ∧
    ∀ q : ℤ, x ≠ 0 → |x| < (2 : ℚ) ^ f.emin → RoundsTo rm (x / 2 ^ (f.emin - f.mant)) q → |q| < 2 ^ f.mant →
      o = .decline

section Outcomes

variable {f : FpFormat} (hf : Fits f) (rm : BitVec 2) (tiny v : Bool)

include hf in
theorem ieeeOutcome_zero (neg : Bool) : IeeeOutcome f rm neg 0 (.must (f.zero neg) excNone) := by
  refine ⟨fun _ => ⟨_, _, rfl, ?_⟩, fun _ h => absurd rfl h⟩
  unfold IeeeResult
  rw [if_pos rfl]
  exact ⟨unpack_zero hf neg, rfl⟩

include hf in
theorem ieeeOutcome_round (zeroNeg neg : Bool) {m : Nat} {sticky : Bool} {y : ℚ} (hm : 0 < m)
    (hy : IsMagnitude m sticky y) (hsticky : sticky = true → 0 < droppedBits f m) (e : Int) :
    IeeeOutcome f rm zeroNeg (withSign neg (y * 2 ^ e)) (f.round rm tiny neg m e sticky) := by
  obtain ⟨hlow, hhigh⟩ := magnitude_bounds hm hy e
  have hpos : 0 < y * 2 ^ e := lt_of_lt_of_le (by positivity) hlow
  have habs : |withSign neg (y * 2 ^ e)| = y * 2 ^ e := by rw [abs_withSign, abs_of_pos hpos]
  have hne : withSign neg (y * 2 ^ e) ≠ 0 := by rw [← abs_pos, habs]; exact hpos
  refine ⟨fun h => ieeeResult_round hf hm hy hsticky ?_ zeroNeg,
    fun q _ h hq hlt => round_of_underflow hy hsticky ?_ hq hlt⟩
  · by_contra htop
    have hbelow : y * 2 ^ e < 2 ^ f.emin := hhigh.trans_le (zpow_le_zpow_right₀ one_le_two (by omega))
    rw [habs] at h
    exact absurd (h.resolve_left hne) (not_le.mpr hbelow)
  · by_contra htop
    rw [habs] at h
    exact absurd ((zpow_le_zpow_right₀ one_le_two (not_lt.mp htop)).trans hlow) (not_le.mpr h)

theorem withSign_natAbs (v : ℤ) : withSign (decide (v < 0)) (v.natAbs : ℚ) = v := by
  rw [withSign, Nat.cast_natAbs]
  by_cases h : v < 0
  · simp [h, abs_of_neg]
  · simp [h, abs_of_nonneg (not_lt.mp h)]

include hf in
theorem ieeeOutcome_roundExact (zeroNeg : Bool) (v : ℤ) (e : Int) :
    IeeeOutcome f rm zeroNeg ((v : ℚ) * 2 ^ e) (f.roundExact rm tiny zeroNeg v e) := by
  unfold FpFormat.roundExact
  by_cases hv : v = 0
  · rw [if_pos hv, hv, Int.cast_zero, zero_mul]
    exact ieeeOutcome_zero hf rm zeroNeg
  · rw [if_neg hv, ← withSign_natAbs v, withSign_mul]
    exact ieeeOutcome_round hf rm tiny zeroNeg _ (Int.natAbs_pos.mpr hv) (isMagnitude_natCast _) (fun h => by cases h) e

/-! ## The operations on numbers (R385-R392, R401-R404) -/

variable (na nb : Bool) (ma mb : Nat) (ea eb : Int)

theorem fpValue_eq_zero_iff : fpValue na ma ea = 0 ↔ ma = 0 := by
  cases na <;> simp [fpValue, zpow_ne_zero]

theorem fpValue_not : fpValue (!na) ma ea = -fpValue na ma ea := by
  cases na <;> simp [fpValue]

theorem add_finite :
    f.add rm tiny v (.finite na ma ea) (.finite nb mb eb) =
      f.roundExact rm tiny (if ma = 0 ∧ mb = 0 ∧ na = nb then na else rm == 3)
        (signed na ma * 2 ^ (ea - min ea eb).toNat + signed nb mb * 2 ^ (eb - min ea eb).toNat) (min ea eb) := rfl

include hf in
theorem ieeeOutcome_add :
    IeeeOutcome f rm (if fpValue na ma ea = 0 ∧ fpValue nb mb eb = 0 ∧ na = nb then na else rm == 3)
      (fpValue na ma ea + fpValue nb mb eb) (f.add rm tiny v (.finite na ma ea) (.finite nb mb eb)) := by
  have hsum : fpValue na ma ea + fpValue nb mb eb =
      ((signed na ma * 2 ^ (ea - min ea eb).toNat + signed nb mb * 2 ^ (eb - min ea eb).toNat : ℤ) : ℚ) *
        2 ^ min ea eb := by
    rw [fpValue_aligned na ma (min_le_left ea eb), fpValue_aligned nb mb (min_le_right ea eb), ← add_mul,
      ← Int.cast_add]
  simp only [hsum, fpValue_eq_zero_iff, add_finite]
  exact ieeeOutcome_roundExact hf rm tiny _ _ _

include hf in
theorem ieeeOutcome_sub :
    IeeeOutcome f rm (if fpValue na ma ea = 0 ∧ fpValue nb mb eb = 0 ∧ na ≠ nb then na else rm == 3)
      (fpValue na ma ea - fpValue nb mb eb) (f.sub rm tiny v (.finite na ma ea) (.finite nb mb eb)) := by
  have h := ieeeOutcome_add hf rm tiny v na (!nb) ma mb ea eb
  simp only [fpValue_not, neg_eq_zero, ← sub_eq_add_neg, Bool.eq_not] at h
  exact h

theorem mul_finite :
    f.mul rm tiny v (.finite na ma ea) (.finite nb mb eb) =
      f.roundExact rm tiny (xor na nb) (signed na ma * signed nb mb) (ea + eb) := rfl

include hf in
theorem ieeeOutcome_mul :
    IeeeOutcome f rm (xor na nb) (fpValue na ma ea * fpValue nb mb eb)
      (f.mul rm tiny v (.finite na ma ea) (.finite nb mb eb)) := by
  have hprod : fpValue na ma ea * fpValue nb mb eb = ((signed na ma * signed nb mb : ℤ) : ℚ) * 2 ^ (ea + eb) := by
    rw [fpValue_eq, fpValue_eq, zpow_add₀ two_ne_zero]
    push_cast
    ring
  rw [hprod, mul_finite]
  exact ieeeOutcome_roundExact hf rm tiny _ _ _

theorem div_finite (hb : mb ≠ 0) :
    f.div rm tiny v (.finite na ma ea) (.finite nb mb eb) =
      if ma = 0 then .must (f.zero (xor na nb)) excNone
      else f.round rm tiny (xor na nb) (ma * 2 ^ (2 * f.mant + 4) / mb) (ea - eb - (2 * f.mant + 4 : ℕ))
        (ma * 2 ^ (2 * f.mant + 4) % mb != 0) := if_neg hb

/-- The quotient of the significands, scaled, has more bits than a significand. -/
theorem quotient_bits {ma mb : Nat} (ha : 0 < ma) (hb : 0 < mb) (hhigh : mb < 2 ^ (f.mant + 1)) :
    2 ^ (f.mant + 1) ≤ ma * 2 ^ (2 * f.mant + 4) / mb := by
  rw [Nat.le_div_iff_mul_le hb]
  calc 2 ^ (f.mant + 1) * mb ≤ 2 ^ (f.mant + 1) * 2 ^ (f.mant + 1) := Nat.mul_le_mul_left _ hhigh.le
    _ = 2 ^ (2 * f.mant + 2) := by rw [← Nat.pow_add]; congr 1; omega
    _ ≤ 2 ^ (2 * f.mant + 4) := Nat.pow_le_pow_right (by decide) (by omega)
    _ ≤ ma * 2 ^ (2 * f.mant + 4) := Nat.le_mul_of_pos_left _ ha

theorem fpValue_div (scale : ℕ) : fpValue na ma ea / fpValue nb mb eb =
    withSign (xor na nb) (((ma * 2 ^ scale : ℕ) : ℚ) / mb * 2 ^ (ea - eb - scale)) := by
  have hexp : (2 : ℚ) ^ ea / 2 ^ eb = 2 ^ scale * 2 ^ (ea - eb - scale) := by
    rw [← zpow_sub₀ two_ne_zero, ← zpow_natCast, ← zpow_add₀ two_ne_zero]
    congr 1
    ring
  have hmag : (ma : ℚ) * 2 ^ ea / (mb * 2 ^ eb) = ((ma * 2 ^ scale : ℕ) : ℚ) / mb * 2 ^ (ea - eb - scale) := by
    rw [mul_div_mul_comm, hexp]
    push_cast
    ring
  rw [fpValue_withSign, fpValue_withSign, ← hmag]
  cases na <;> cases nb <;> simp [withSign, neg_div, div_neg]

include hf in
theorem ieeeOutcome_div (hb : mb ≠ 0) (hhigh : mb < 2 ^ (f.mant + 1)) :
    IeeeOutcome f rm (xor na nb) (fpValue na ma ea / fpValue nb mb eb)
      (f.div rm tiny v (.finite na ma ea) (.finite nb mb eb)) := by
  rw [div_finite rm tiny v na nb ma mb ea eb hb]
  by_cases ha : ma = 0
  · rw [if_pos ha, (fpValue_eq_zero_iff na ma ea).mpr ha, zero_div]
    exact ieeeOutcome_zero hf rm _
  · have hbits := quotient_bits (f := f) (Nat.pos_of_ne_zero ha) (Nat.pos_of_ne_zero hb) hhigh
    have hpos : 0 < ma * 2 ^ (2 * f.mant + 4) / mb := lt_of_lt_of_le (by positivity) hbits
    have hdropped : 0 < droppedBits f (ma * 2 ^ (2 * f.mant + 4) / mb) := by
      have := (Nat.le_log2 hpos.ne').mpr hbits
      unfold droppedBits
      omega
    rw [if_neg ha, fpValue_div na nb ma mb ea eb (2 * f.mant + 4)]
    exact ieeeOutcome_round hf rm tiny _ _ hpos (isMagnitude_div _ (Nat.pos_of_ne_zero hb)) (fun _ => hdropped) _

include hf in
theorem ieeeOutcome_convert :
    IeeeOutcome f rm na (fpValue na ma ea) (f.convert rm tiny v (.finite na ma ea)) := by
  rw [fpValue_eq]
  exact ieeeOutcome_roundExact hf rm tiny na (signed na ma) ea

include hf in
theorem ieeeOutcome_fromInt (i : ℤ) : IeeeOutcome f rm false (i : ℚ) (f.fromInt rm i) := by
  have h := ieeeOutcome_roundExact hf rm false false i 0
  rwa [zpow_zero, mul_one] at h

end Outcomes

/-- What an operand that is a number looks like: a zero, or a significand with its leading bit set. -/
theorem unpack_finite {f : FpFormat} {v : BitVec 64} {n : Bool} {m : Nat} {e : Int} (h : f.unpack v = .finite n m e) :
    m = 0 ∨ (2 ^ f.mant ≤ m ∧ m < 2 ^ (f.mant + 1) ∧ f.emin - f.mant ≤ e) := by
  have hmant : v.toNat % 2 ^ f.mant < 2 ^ f.mant := Nat.mod_lt _ (by positivity)
  unfold FpFormat.unpack at h
  dsimp only at h
  split at h
  · split at h
    · injection h with _ hm
      exact .inl hm.symm
    · cases h
  · split at h
    · split at h
      · cases h
      · split at h <;> cases h
    · rename_i hpos _
      injection h with _ hm he
      right
      unfold FpFormat.emin
      rw [Nat.pow_succ]
      omega

/-! ## How an operation ends (R380) -/

/-- A result has one set of exceptions: the binade and the rounded integer are the value's. -/
theorem ieeeResult_exc_unique {f : FpFormat} {rm : BitVec 2} {zeroNeg : Bool} {x : ℚ} {v v' : BitVec 64}
    {exc exc' : BitVec 5} (h : IeeeResult f rm zeroNeg x v exc) (h' : IeeeResult f rm zeroNeg x v' exc') :
    exc = exc' := by
  unfold IeeeResult at h h'
  by_cases hx : x = 0
  · rw [if_pos hx] at h h'
    exact h.2.trans h'.2.symm
  rw [if_neg hx] at h h'
  obtain ⟨e, q, hlow, hhigh, hround, h⟩ := h
  obtain ⟨e', q', hlow', hhigh', hround', h'⟩ := h'
  have binade {e e' : ℤ} (hlow : (2 : ℚ) ^ f.mant * 2 ^ e ≤ |x|) (hhigh : |x| < (2 : ℚ) ^ (f.mant + 1) * 2 ^ e') :
      e ≤ e' := by
    have hlt := hlow.trans_lt hhigh
    rw [← zpow_natCast, ← zpow_natCast, ← zpow_add₀ two_ne_zero, ← zpow_add₀ two_ne_zero,
      zpow_lt_zpow_iff_right₀ one_lt_two] at hlt
    push_cast at hlt
    omega
  obtain rfl : e = e' := le_antisymm (binade hlow hhigh') (binade hlow' hhigh)
  obtain rfl := roundsTo_unique hround hround'
  split at h
  · rename_i hfits
    rw [if_pos hfits] at h'
    exact h.2.trans h'.2.symm
  · rename_i hover
    rw [if_neg hover] at h'
    exact h.2.trans h'.2.symm

theorem ieeeResult_exc_cases {f : FpFormat} {rm : BitVec 2} {zeroNeg : Bool} {x : ℚ} {v : BitVec 64} {exc : BitVec 5}
    (h : IeeeResult f rm zeroNeg x v exc) : exc = 0 ∨ exc = excI ∨ exc = excO ||| excI := by
  unfold IeeeResult at h
  split at h
  · exact .inl h.2
  · obtain ⟨e, q, -, -, -, h⟩ := h
    split at h
    · rw [h.2]
      split
      · exact .inl rfl
      · exact .inr (.inl rfl)
    · exact .inr (.inr h.2)

/-- With overflow and inexact masked none of a result's exceptions is enabled. -/
theorem masked_of_inexactMasked {s : State} (h : InexactMasked s) {exc : BitVec 5}
    (hexc : exc = 0 ∨ exc = excI ∨ exc = excO ||| excI) : exc &&& fcrEnables s.fcrView = 0 := by
  unfold InexactMasked at h
  generalize fcrEnables s.fcrView = enables at h ⊢
  rcases hexc with rfl | rfl | rfl
  · exact BitVec.zero_and
  · revert enables; decide
  · rw [BitVec.and_comm]; exact h

/-- An operation that answers as it must ends as the statement of the arithmetic says. -/
theorem fpPerforms_fpComplete {s : State} (hfpa : s.cfg.hasFpa = true) {d : Bool} {fd : Reg} (hd : fd.getLsbD 0 = false)
    {zeroNeg : Bool} {x : ℚ} {o : FpOutcome} (ho : IeeeOutcome (formatOf d) (fcrMode s.fcrView) zeroNeg x o)
    (word : Word) (a b : BitVec 64) : FpPerforms s (fpComplete word a b o s (s.storeFp d fd)) d fd zeroNeg x := by
  obtain ⟨hmust, hdecline⟩ := ho
  refine ⟨fun hx hmasked => ?_, fun v exc hx hv hview henabled => ?_, fun q hx hlt hq hqlt => ?_⟩
  · obtain ⟨v, exc, rfl, hv⟩ := hmust hx
    exact ⟨v, exc, hv, fpDelivers_fpDeliver (masked_of_inexactMasked hmasked (ieeeResult_exc_cases hv)) d hd v⟩
  · obtain ⟨v', exc', rfl, hv'⟩ := hmust hx
    obtain rfl := ieeeResult_exc_unique hv hv'
    exact fpTraps_fpDeliver hfpa hview henabled _
  · exact fpDeclines_fpComplete hfpa (hdecline q hx hlt hq hqlt) _ _ _ _

/-! ## The arithmetic (R385-R392) -/

/-- Settles O52. -/
theorem fpArithmeticResult : Obligations.FpArithmeticResult := by
  intro s fd fs ft hready hd hs ht d na ma ea nb mb eb ha hb x y run down
  obtain ⟨⟨wadd, hadd⟩, ⟨wsub, hsub⟩, ⟨wmul, hmul⟩, wdiv, hdiv⟩ := exec_arithmetic d fd fs ft s
  have binary {r : Result} {op : FpFormat → BitVec 2 → Bool → Bool → Fp → Fp → FpOutcome} {w : Word}
      {zeroNeg : Bool} {z : ℚ} (hr : r = fpBinary d op w fd fs ft s)
      (ho : IeeeOutcome (formatOf d) s.fpMode zeroNeg z
        (op (formatOf d) s.fpMode s.fpTiny s.fpInvalidEnabled (.finite na ma ea) (.finite nb mb eb))) :
      FpPerforms s r d fd zeroNeg z := by
    rw [hr, fpBinary_of_even hready hd hs ht, ha, hb]
    exact fpPerforms_fpComplete hready.2 hd ho w _ _
  have hf := formatOf_fits d
  refine ⟨binary hadd (ieeeOutcome_add hf _ _ _ _ _ _ _ _ _), binary hsub (ieeeOutcome_sub hf _ _ _ _ _ _ _ _ _),
    binary hmul (ieeeOutcome_mul hf _ _ _ _ _ _ _ _ _), fun hy => ?_⟩
  have hmb : mb ≠ 0 := fun h => hy ((fpValue_eq_zero_iff nb mb eb).mpr h)
  obtain ⟨-, hhigh, -⟩ := (unpack_finite hb).resolve_left hmb
  exact binary hdiv (ieeeOutcome_div hf _ _ _ _ _ _ _ _ _ hmb hhigh)

/-! ## The conversions (R401-R406) -/

/-- A number that is not zero is at least the smallest normalized one of its format. -/
theorem emin_le_of_unpack {f : FpFormat} {v : BitVec 64} {n : Bool} {m : Nat} {e : Int}
    (h : f.unpack v = .finite n m e) : fpValue n m e = 0 ∨ (2 : ℚ) ^ f.emin ≤ |fpValue n m e| := by
  rw [fpValue_eq_zero_iff]
  refine (unpack_finite h).imp_right fun ⟨hlow, _, hexp⟩ => ?_
  have hlow : (2 : ℚ) ^ f.mant ≤ m := by exact_mod_cast hlow
  rw [fpValue_withSign, abs_withSign, abs_of_nonneg (by positivity)]
  calc (2 : ℚ) ^ f.emin = 2 ^ f.mant * 2 ^ (f.emin - f.mant) := by
        rw [← zpow_natCast, ← zpow_add₀ two_ne_zero, add_sub_cancel]
    _ ≤ m * 2 ^ e := mul_le_mul hlow (zpow_le_zpow_right₀ one_le_two hexp) (by positivity) (by positivity)

theorem emin_le_intCast (d : Bool) (i : ℤ) : (i : ℚ) = 0 ∨ (2 : ℚ) ^ (formatOf d).emin ≤ |(i : ℚ)| := by
  by_cases hi : i = 0
  · exact .inl (by rw [hi, Int.cast_zero])
  · have hone : (1 : ℚ) ≤ |(i : ℚ)| := by exact_mod_cast Int.one_le_abs hi
    exact .inr ((zpow_le_one_of_nonpos₀ one_le_two (by cases d <;> decide)).trans hone)

/-- The magnitude of the integer that `toInt32` makes of a number. -/
def integerMagnitude (rm : BitVec 2) (n : Bool) (m : Nat) (e : Int) : Nat :=
  if e < 0 then roundShift rm n m (-e).toNat false else m * 2 ^ e.toNat

theorem integerMagnitude_of_neg (rm : BitVec 2) (n : Bool) (m : Nat) {e : Int} (h : e < 0) :
    RoundsTo rm (fpValue n m e) (signed n (integerMagnitude rm n m e)) ∧
      ((signed n (integerMagnitude rm n m e) : ℚ) = fpValue n m e ↔ m % 2 ^ (-e).toNat = 0) := by
  have hscale : (m : ℚ) * 2 ^ e = m / 2 ^ (-e).toNat := by
    rw [div_eq_mul_inv, ← zpow_natCast, ← zpow_neg, Int.toNat_of_nonneg (by omega), neg_neg]
  rw [integerMagnitude, if_pos h, fpValue_withSign, hscale]
  refine ⟨roundsTo_roundShift rm n (isMagnitude_natCast m) (fun hs => by cases hs), ?_⟩
  rw [signed_cast, withSign_inj, eq_div_iff (by positivity)]
  constructor
  · intro hexact
    have hexact : roundShift rm n m (-e).toNat false * 2 ^ (-e).toNat = m := by exact_mod_cast hexact
    exact Nat.mod_eq_zero_of_dvd (Dvd.intro_left _ hexact)
  · intro hmod
    rw [roundShift_of_exact rm n hmod]
    exact_mod_cast Nat.div_mul_cancel (Nat.dvd_of_mod_eq_zero hmod)

theorem integerMagnitude_of_nonneg (rm : BitVec 2) (n : Bool) (m : Nat) {e : Int} (h : 0 ≤ e) :
    (signed n (integerMagnitude rm n m e) : ℚ) = fpValue n m e := by
  rw [integerMagnitude, if_neg (by omega), signed_cast, fpValue_withSign, withSign_inj]
  conv_rhs => rw [← Int.toNat_of_nonneg h, zpow_natCast]
  push_cast
  rfl

/-- The integer a number rounds to, with I exactly when it differs from the number (R405). -/
theorem toInt32_finite {rm : BitVec 2} {n : Bool} {m : Nat} {e : Int} {q : ℤ} (hq : RoundsTo rm (fpValue n m e) q) :
    toInt32 rm (.finite n m e) =
      if -(2 ^ 31) ≤ q ∧ q ≤ 2 ^ 31 - 1 then
        .must ((BitVec.ofInt 32 q).setWidth 64) (if (q : ℚ) = fpValue n m e then 0 else excI)
      else .decline := by
  obtain ⟨rfl, hexact⟩ : signed n (integerMagnitude rm n m e) = q ∧
      ((signed n (integerMagnitude rm n m e) : ℚ) = fpValue n m e ↔
        (decide (e ≥ 0) || m % 2 ^ (-e).toNat == 0) = true) := by
    rcases lt_or_ge e 0 with h | h
    · obtain ⟨hround, hiff⟩ := integerMagnitude_of_neg rm n m h
      exact ⟨roundsTo_unique hround hq, by simp [hiff, h]⟩
    · have hvalue := integerMagnitude_of_nonneg rm n m h
      exact ⟨roundsTo_unique (hvalue ▸ roundsTo_intCast rm _) hq, by simp [hvalue, h]⟩
  simp only [hexact]
  rfl

/-- Settles O53. -/
theorem fpConversionResult : Obligations.FpConversionResult := by
  intro s fd fs hready hd hs
  have unary {r : Result} {d d' : Bool} {op : State → BitVec 64 → FpOutcome} {w : Word} {zeroNeg : Bool} {x : ℚ}
      (hr : r = fpUnary d d' op w fd fs s)
      (ho : IeeeOutcome (formatOf d') (fcrMode s.fcrView) zeroNeg x (op s (s.srcFp d fs))) :
      FpPerforms s r d' fd zeroNeg x := by
    rw [hr, fpUnary_of_even hready hd hs]
    exact fpPerforms_fpComplete hready.2 hd ho w _ _
  have convert {d d' n : Bool} {m : Nat} {e : Int} (ha : (formatOf d).unpack (s.srcFp d fs) = .finite n m e) :
      IeeeOutcome (formatOf d') (fcrMode s.fcrView) n (fpValue n m e) (fpConvert d d' s (s.srcFp d fs)) := by
    rw [fpConvert, ha]
    exact ieeeOutcome_convert (formatOf_fits d') _ _ _ _ _ _
  have fromInt (d' : Bool) : IeeeOutcome (formatOf d') (fcrMode s.fcrView) false ((s.srcFpr fs).toInt : ℚ)
      (fpFromInt d' s (s.srcFp false fs)) := by
    have hword : ((s.srcFp false fs).setWidth 32 : Word) = s.srcFpr fs :=
      (BitVec.setWidth_setWidth_of_le (s.srcFpr fs) (by decide : 32 ≤ 64)).trans (BitVec.setWidth_eq _)
    rw [fpFromInt, hword]
    exact ieeeOutcome_fromInt (formatOf_fits d') _ _
  refine ⟨fun n m e ha => unary (d := true) (d' := false) rfl (convert ha), fun n m e ha hmasked => ?_,
    fun hmasked => ⟨?_, ?_⟩, fun d n m e ha q hq => ?_⟩
  · have hemin : double.emin ≤ single.emin := by decide
    have hnormal := (emin_le_of_unpack ha).imp_right (zpow_le_zpow_right₀ one_le_two hemin).trans
    exact (unary (d := false) (d' := true) rfl (convert ha)).1 hnormal hmasked
  · exact (unary (d := false) (d' := false) rfl (fromInt false)).1 (emin_le_intCast false _) hmasked
  · exact (unary (d := false) (d' := true) rfl (fromInt true)).1 (emin_le_intCast true _) hmasked
  · intro r
    obtain ⟨-, w, hr⟩ := exec_convert d fd fs s
    have ho : fpToInt d s (s.srcFp d fs) = _ := (congrArg (toInt32 s.fpMode) ha).trans (toInt32_finite hq)
    have hr : r = fpComplete w (s.srcFp d fs) 0 (fpToInt d s (s.srcFp d fs)) s (s.storeFp false fd) :=
      hr.trans (fpUnary_of_even hready hd hs d false (fpToInt d) w)
    refine ⟨fun hlow hhigh hmasked => ?_, fun hout => ?_⟩
    · rw [hr, ho, if_pos ⟨hlow, by omega⟩]
      refine fpDelivers_fpDeliver (masked_of_inexactMasked hmasked ?_) false hd _
      split
      · exact .inl rfl
      · exact .inr (.inl rfl)
    · rw [hr]
      exact fpDeclines_fpComplete hready.2 (ho.trans (if_neg (by omega))) _ _ _ _

end Sys2Proof.Proofs

/-! Exceptions: the words an entry writes to coprocessor 0, the vectors, and what the handler's first instruction finds. -/

namespace Sys2Proof.Proofs

open Sys2Proof.Machine Sys2Proof.Laws

/-! ## The registers of coprocessor 0 (60_exceptions.md R530, R531, R534) -/

/-- A merge under a mask of the bits `lo` to `lo + m - 1` is three parts put together. -/
theorem mergeBits_field {l m n : Nat} (h : l + m + n = 32) {mask : Word}
    (hmask : ∀ i, i < 32 → mask.getLsbD i = (decide (n ≤ i) && decide (i < m + n))) (keep other : Word) :
    mergeBits mask keep other =
      (other.extractLsb' (m + n) l ++ keep.extractLsb' n m ++ other.extractLsb' 0 n).cast h := by
  apply BitVec.eq_of_getLsbD_eq
  intro i hi
  rw [mergeBits_getLsbD _ _ _ hi, hmask i hi, BitVec.getLsbD_cast, BitVec.getLsbD_append, BitVec.getLsbD_append]
  by_cases hlow : i < n
  · simp [hlow, show ¬ n ≤ i by omega]
  · by_cases hmid : i - n < m
    · simp [hlow, hmid, show n ≤ i by omega, show i < m + n by omega, show n + (i - n) = i by omega]
    · simp [hlow, hmid, show ¬ i < m + n by omega, show m + n + (i - n - m) = i by omega, show i - n - m < l by omega]

theorem pushMode_eq (sr : Word) : pushMode sr = sr.extractLsb' 6 26 ++ sr.extractLsb' 0 4 ++ 0#2 := by
  have hlow : (sr <<< 2).extractLsb' 0 6 = sr.extractLsb' 0 4 ++ 0#2 := by
    apply BitVec.eq_of_getLsbD_eq
    intro i hi
    rw [BitVec.getLsbD_extractLsb', BitVec.getLsbD_shiftLeft, BitVec.getLsbD_append]
    by_cases hzero : i < 2
    · simp [hzero]
    · simp [hzero, hi, show i < 32 by omega, show i - 2 < 4 by omega]
  rw [BitVec.append_assoc, ← hlow]
  exact mergeBits_high (m := 26) (n := 6) rfl sr (sr <<< 2)

theorem setVpn_eq (va hi : Word) : setVpn va hi = va.extractLsb' 12 20 ++ hi.extractLsb' 0 12 :=
  mergeBits_high (m := 20) (n := 12) rfl va hi

theorem setBadVpn_eq (va context : Word) :
    setBadVpn va context = context.extractLsb' 21 11 ++ va.extractLsb' 12 19 ++ context.extractLsb' 0 2 := by
  have hvpn : (va >>> 10).extractLsb' 2 19 = va.extractLsb' 12 19 := by
    apply BitVec.eq_of_getLsbD_eq
    intro i hi
    simp [show 10 + (2 + i) = 12 + i by omega]
  rw [← hvpn]
  exact mergeBits_field (l := 11) (m := 19) (n := 2) rfl (by decide) (va >>> 10) context

/-- Cause after entry bit by bit: the software interrupt bits 9:8, BD at 31, CE from 28 on, ExcCode from 2 on. -/
theorem causeAfter_getLsbD (cause : Word) (slot : Bool) (ce : BitVec 2) (code : BitVec 5) {i : Nat} (hi : i < 32) :
    (causeAfter cause slot ce code).getLsbD i =
      (cause.getLsbD i && (i == 8 || i == 9) || slot && i == 31 || decide (28 ≤ i) && ce.getLsbD (i - 28) ||
        decide (2 ≤ i) && code.getLsbD (i - 2)) := by
  have hsoft : ∀ i, i < 32 → ((0x300 : Nat) : Word).getLsbD i = (i == 8 || i == 9) := by decide
  have hslot : ∀ b : Bool, ∀ i, i < 32 → ((if b then 0x80000000 else 0 : Nat) : Word).getLsbD i = (b && i == 31) := by
    decide
  have hfield {n k : Nat} (x : BitVec n) : (x.setWidth 32 <<< k).getLsbD i = (decide (k ≤ i) && x.getLsbD (i - k)) := by
    rw [BitVec.getLsbD_shiftLeft, BitVec.getLsbD_setWidth]
    by_cases h : i < k
    · simp [h, show ¬ k ≤ i by omega]
    · simp [h, hi, show k ≤ i by omega, show i - k < 32 by omega]
  rw [causeAfter, BitVec.getLsbD_or, BitVec.getLsbD_or, BitVec.getLsbD_or, BitVec.getLsbD_and, hsoft i hi, hslot slot i hi,
    hfield, hfield]

/-- The fields of Cause after entry do not overlap. -/
theorem causeAfter_fields (cause : Word) (slot : Bool) (ce : BitVec 2) (code : BitVec 5) :
    (causeAfter cause slot ce code).getLsbD 31 = slot ∧ (causeAfter cause slot ce code).extractLsb' 2 5 = code ∧
      causeAfter cause slot ce code &&& 0x300 = cause &&& 0x300 ∧
      (causeAfter cause slot ce code).extractLsb' 28 2 = ce := by
  refine ⟨?_, ?_, ?_, ?_⟩
  · rw [causeAfter_getLsbD _ _ _ _ (by decide)]
    simp
  · apply BitVec.eq_of_getLsbD_eq
    intro i hi
    rw [BitVec.getLsbD_extractLsb', causeAfter_getLsbD _ _ _ _ (by omega)]
    simp [hi, show 2 + i ≠ 8 by omega, show 2 + i ≠ 9 by omega, show 2 + i ≠ 31 by omega, show ¬ 28 ≤ 2 + i by omega]
  · have hsoft : ∀ i, i < 32 → (0x300 : Word).getLsbD i = (i == 8 || i == 9) := by decide
    apply BitVec.eq_of_getLsbD_eq
    intro i hi
    rw [BitVec.getLsbD_and, BitVec.getLsbD_and, causeAfter_getLsbD _ _ _ _ hi, hsoft i hi]
    by_cases h : i = 8 ∨ i = 9
    · rcases h with rfl | rfl <;> simp
    · obtain ⟨h8, h9⟩ := not_or.1 h
      rw [beq_false_of_ne h8, beq_false_of_ne h9, Bool.or_false, Bool.and_false, Bool.and_false]
  · apply BitVec.eq_of_getLsbD_eq
    intro i hi
    rw [BitVec.getLsbD_extractLsb', causeAfter_getLsbD _ _ _ _ (by omega)]
    simp [hi, show 28 + i ≠ 8 by omega, show 28 + i ≠ 9 by omega, show 28 + i ≠ 31 by omega,
      show 5 ≤ 28 + i - 2 by omega]

/-! ## The vectors (R532) -/

theorem excVector_of_no_recent {s : State} (h : NoRecentMtc0 s) (e : Exc) :
    s.excVector e = (if s.cp0.sr.getLsbD 22 then 0xBFC00100 else 0x80000000) + if e.isKusegRefill then 0 else 0x80 := by
  rw [State.excVector, State.bootVectors, srBit_nil h]

theorem isKusegRefill_iff (e : Exc) :
    e.isKusegRefill = true ↔ ∃ va, va.msb = false ∧ (e = .tlbl va true ∨ e = .tlbs va true) := by
  cases e with
  | tlbl | tlbs => simp [Exc.isKusegRefill, and_comm]
  | _ => simp [Exc.isKusegRefill]

/-- Settles O40. -/
theorem exceptionEntry : Obligations.ExceptionEntry := by
  intro s e hl
  obtain ⟨hslot, hcode, hsoft, hce⟩ := causeAfter_fields s.cp0.cause s.inDelay (s.excCe e) e.code
  have hvector := excVector_of_no_recent hl e
  refine ⟨rfl, hslot, hcode, hsoft, ?_, pushMode_eq s.cp0.sr, fun va hva => ?_, fun va hva => ⟨?_, ?_⟩,
    fun hnone => ⟨?_, ?_⟩, fun va hkuseg he => ?_, fun hother => ?_, rfl, rfl⟩
  · rintro z rfl
    exact hce
  · show e.badVaddr.getD _ = va
    rw [hva]
    rfl
  · rw [takeException_cp0, ← setVpn_eq]
    simp only [State.excCp0, hva]
  · rw [takeException_cp0, ← setBadVpn_eq]
    simp only [State.excCp0, hva]
  · simp only [takeException_cp0, State.excCp0, hnone]
  · simp only [takeException_cp0, State.excCp0, hnone]
  · rw [takeException_pc, hvector, (isKusegRefill_iff e).2 ⟨va, hkuseg, he⟩]
    split <;> rfl
  · have hgeneral : e.isKusegRefill = false := by
      rw [Bool.eq_false_iff, ne_eq, isKusegRefill_iff]
      rintro ⟨va, hkuseg, he⟩
      rw [hother va he] at hkuseg
      cases hkuseg
    rw [takeException_pc, hvector, hgeneral]
    split <;> rfl

/-! ## The handler's first instruction (R505, R536) -/

/-- With no read of HI or LO in flight, an instruction starts with the general registers as they are. -/
theorem begin_gprAt_of_no_read {s : State} (h : s.pipe.hiloReads = []) (q : Reg) : s.begin.gprAt q = s.gprAt q := by
  obtain ⟨hf, -⟩ := startHandler_eq s.rotated
  obtain ⟨n, o, l, ht, -⟩ := settleTimer_eq s.rotated.startHandler.settleReads
  obtain ⟨g, r, -, -, hg⟩ := settleReads_eq s.rotated.startHandler
  have hreads : s.rotated.startHandler.pipe.hiloReads = [] := by
    rw [hf]
    simp [Pipe.rotate, h]
  calc s.begin.gprAt q
      = s.rotated.startHandler.settleReads.gprAt q := by rw [State.begin, ht]; rfl
    _ = s.rotated.startHandler.gprAt q := hg q (by simp [hreads])
    _ = s.gprAt q := by rw [hf]; rfl

/-- HI and LO at the start of an instruction are those `State.startHandler` leaves. -/
theorem begin_hilo (s : State) : s.begin.hi = s.rotated.startHandler.hi ∧ s.begin.lo = s.rotated.startHandler.lo := by
  obtain ⟨n, o, l, ht, -⟩ := settleTimer_eq s.rotated.startHandler.settleReads
  obtain ⟨g, r, hg, -, -⟩ := settleReads_eq s.rotated.startHandler
  rw [State.begin, ht, hg]
  exact ⟨rfl, rfl⟩

/-- What the previous instruction left pending is in its slot. -/
theorem begin_shadows (s : State) :
    s.begin.pipe.gprShadow = s.pipe.gprLate ∧ s.begin.pipe.fprShadow = s.pipe.fprLate ∧
      s.begin.pipe.fcrShadow = s.pipe.fcrLate := by
  obtain ⟨_, _, _, _, _, _, _, _, h, -⟩ := begin_eq s
  rw [h]
  exact ⟨rfl, rfl, rfl⟩

/-- Settles O41. -/
theorem exceptionEntryFrame : Obligations.ExceptionEntryFrame := by
  intro s e
  obtain ⟨hgpr, hfpr, hfcr⟩ := begin_shadows (s.takeException e)
  obtain ⟨hstartHi, hstartLo⟩ := begin_hilo (s.takeException e)
  refine ⟨fun _ => rfl, rfl, rfl, rfl, rfl, rfl, rfl, rfl, fun q => ?_, fun q => ?_, ?_, ?_⟩
  · rw [src_of_none hgpr]
    exact begin_gprAt_of_no_read rfl q
  · rw [srcFpr_of_not_pending fun l hl => (Option.some_ne_none l (hl.symm.trans hfpr)).elim, State.fprAt, State.fprAt]
    simp only [begin_fpr, takeException_fpr]
  · rw [State.fcrView, hfcr]
    exact begin_fcr31 _
  · rw [hstartHi, hstartLo]
    rcases startHandler_hilo (s.takeException e).rotated with hkept | ⟨v, u, hv, hu, hhi, hlo⟩
    · exact .inl hkept
    · cases hv
      rcases hu with rfl | rfl
      · exact .inr (.inl ⟨hhi, hlo⟩)
      · exact .inr (.inr ⟨hhi, hlo⟩)

end Sys2Proof.Proofs

/-! Reset and the hazard windows: what a reset fixes, what a warm reset keeps, and how the in-flight state ages. -/

namespace Sys2Proof.Proofs

open Sys2Proof.Machine Sys2Proof.Laws

/-! ## The in-flight state some instructions later (70_reset_and_hazards.md R590-R600, 42_muldiv.md R256) -/

/-- One instruction later, for a list of what has been noted: each note is one older, and those past age `n` are dropped. -/
def ageNotes {α : Type} (older : α → α) (age : α → Nat) (n : Nat) (l : List α) : List α :=
  (l.map older).filter fun x => decide (age x ≤ n)

section Ageing

variable {α : Type} {older : α → α} {age : α → Nat}

/-- After `k` instructions a note that is left is at least `k` old. -/
theorem le_age_of_mem_iterate_ageNotes (holder : ∀ x, age (older x) = age x + 1) (n k : Nat) (l : List α) :
    ∀ x ∈ (ageNotes older age n)^[k] l, k ≤ age x := by
  induction k with
  | zero => exact fun x _ => Nat.zero_le _
  | succ k ih =>
    intro x hx
    rw [Function.iterate_succ_apply', ageNotes, List.mem_filter, List.mem_map] at hx
    obtain ⟨⟨y, hy, rfl⟩, -⟩ := hx
    rw [holder]
    exact Nat.succ_le_succ (ih y hy)

/-- A window of `n` instructions is shut after more than `n` of them. -/
theorem iterate_ageNotes_eq_nil (holder : ∀ x, age (older x) = age x + 1) {n k : Nat} (h : n < k) (l : List α) :
    (ageNotes older age n)^[k] l = [] := by
  obtain ⟨k, rfl⟩ : ∃ j, k = j + 1 := ⟨k - 1, by omega⟩
  refine List.eq_nil_iff_forall_not_mem.2 fun x hx => ?_
  have hold : k + 1 ≤ age x := le_age_of_mem_iterate_ageNotes holder n (k + 1) l x hx
  rw [Function.iterate_succ_apply', ageNotes, List.mem_filter, decide_eq_true_iff] at hx
  omega

/-- A list in the in-flight state that each instruction ages with a window of `n` is empty after more than `n` of them. -/
theorem iterate_rotate_window_closed {notes : Pipe → List α} (holder : ∀ x, age (older x) = age x + 1) {n k : Nat}
    (hrotate : ∀ p, notes p.rotate = ageNotes older age n (notes p)) (h : n < k) (p : Pipe) :
    notes (Pipe.rotate^[k] p) = [] :=
  (Function.Semiconj.iterate_right hrotate k p).trans (iterate_ageNotes_eq_nil holder h _)

end Ageing

/-- The windows of R597 to R599 behind an `mtc0`. -/
theorem iterate_rotate_late {k : Nat} (h : 3 < k) (p : Pipe) : (Pipe.rotate^[k] p).late = [] :=
  iterate_rotate_window_closed (older := fun l => { l with age := l.age + 1 }) (age := Cp0Late.age) (fun _ => rfl)
    (fun _ => rfl) h p

/-- The windows of R600 behind a TLB write. -/
theorem iterate_rotate_tlbLate {k : Nat} (h : 2 < k) (p : Pipe) : (Pipe.rotate^[k] p).tlbLate = [] :=
  iterate_rotate_window_closed (older := fun l => { l with age := l.age + 1 }) (age := TlbLate.age) (fun _ => rfl)
    (fun _ => rfl) h p

/-- The two instructions of R256 behind an `mfhi` or `mflo`. -/
theorem iterate_rotate_hiloReads {k : Nat} (h : 2 < k) (p : Pipe) : (Pipe.rotate^[k] p).hiloReads = [] :=
  iterate_rotate_window_closed (older := fun r => { r with age := r.age + 1 }) (age := HiLoRead.age) (fun _ => rfl)
    (fun _ => rfl) h p

/-- The window of R594 and R595 on the FP condition. -/
theorem iterate_rotate_condWin (k : Nat) (p : Pipe) : (Pipe.rotate^[k] p).condWin = p.condWin - k := by
  induction k with
  | zero => rfl
  | succ k ih =>
    rw [Function.iterate_succ_apply', Nat.sub_succ, ← ih]
    rfl

/-- Nothing is in the slot of a load or of a `ctc1` two instructions later. -/
theorem rotate_rotate_shadows (p : Pipe) :
    p.rotate.rotate.gprShadow = none ∧ p.rotate.rotate.fprShadow = none ∧ p.rotate.rotate.fcrShadow = none :=
  ⟨rfl, rfl, rfl⟩

/-- Settles O13: four instructions outlast the longest window, the three of R599. -/
theorem hazardWindowsClose : Obligations.HazardWindowsClose := by
  intro p
  obtain ⟨hgpr, hfpr, hfcr⟩ := rotate_rotate_shadows p.rotate.rotate
  exact ⟨hgpr, hfpr, hfcr, iterate_rotate_late (k := 4) (by decide) p, iterate_rotate_tlbLate (k := 4) (by decide) p,
    iterate_rotate_hiloReads (k := 4) (by decide) p, iterate_rotate_condWin 4 p⟩

/-! ## What a reset fixes (R571, 10_state.md R89) -/

/-- SR after reset: interrupts off, kernel mode, TS by the part, BEV set. -/
theorem resetSr_bits (c : Config) :
    (resetSr c).getLsbD 0 = false ∧ (resetSr c).getLsbD 1 = false ∧ (resetSr c).getLsbD 21 = !c.hasMmu ∧
      (resetSr c).getLsbD 22 = true := by
  unfold resetSr
  cases c.hasMmu <;> decide

/-- Config.Lock is clear on every member. -/
theorem resetConfig_unlocked (c : Config) : (resetConfig c).getLsbD 31 = false := by
  unfold resetConfig
  cases c.member with
  | r3041 | r3071 | r3081 => cases c.dbRefillAtReset <;> decide
  | r3051 | r3052 => exact BitVec.getLsbD_zero

/-- The R3081's FPA drives the interrupt input 3. -/
theorem resetConfig_fpInt {c : Config} (h : c.member = .r3081) : (resetConfig c).extractLsb' 26 3 = 0b011 := by
  unfold resetConfig
  rw [h]
  cases c.dbRefillAtReset <;> decide

/-- Settles O1. -/
theorem resetGuarantees : Obligations.ResetGuarantees := by
  intro c
  obtain ⟨hie, hku, hts, hbev⟩ := resetSr_bits c
  exact ⟨rfl, rfl, rfl, hku, hie, hbev, hts, rfl, fun _ => rfl, resetConfig_fpInt, resetConfig_unlocked c,
    (by decide : resetBusCtrl.getLsbD 31 = false), rfl, fun hfpa => (fcrRead_of_fpa hfpa).1⟩

/-! ## What a warm reset keeps (R571, R572, log entry 43) -/

/-- Reading an address that is not the one written, whatever form the list is in. -/
theorem sparseGet_sparseSet_of_ne {α : Type} [DecidableEq α] {d : α} (m : List (Nat × α)) {a b : Nat} (h : b ≠ a)
    (v : α) : sparseGet d (sparseSet d m a v) b = sparseGet d m b := by
  induction m with
  | nil =>
    rw [sparseSet]
    split
    · rfl
    · exact if_neg h
  | cons q m ih =>
    obtain ⟨k, w⟩ := q
    rw [sparseSet]
    split
    · split
      · rfl
      · exact if_neg h
    · split
      · rename_i hk
        split
        · exact (if_neg (hk ▸ h)).symm
        · exact (if_neg (hk ▸ h)).trans (if_neg (hk ▸ h)).symm
      · simp only [sparseGet, ih]

/-- The general register a load was filling is the one that may be trashed. -/
theorem trashLoads_gprAt {s : State} {q : Reg} (h : ∀ l, s.pipe.gprLate = some l → l.reg ≠ q) :
    s.trashLoads.gprAt q = s.gprAt q := by
  unfold State.trashLoads
  cases s.pipe.fprLate <;> cases hl : s.pipe.gprLate with
  | none => rfl
  | some l => exact gprAt_setGpr_of_ne s (h l hl).symm _

/-- The FP register a load was filling is the one that may be trashed. -/
theorem trashLoads_fprAt {s : State} {q : Reg} (h : ∀ l, s.pipe.fprLate = some l → l.reg ≠ q) :
    s.trashLoads.fprAt q = s.fprAt q := by
  have hgpr (t : State) (r : Reg) (v : Word) : (t.setGpr r v).fprAt q = t.fprAt q := by
    simp only [State.fprAt, setGpr_fpr]
  unfold State.trashLoads
  cases hl : s.pipe.fprLate with
  | none =>
    cases s.pipe.gprLate with
    | none => rfl
    | some => exact hgpr s _ _
  | some l =>
    have hne : ¬ q = l.reg := fun e => h l hl e.symm
    cases s.pipe.gprLate with
    | none => exact (fprAt_setFpr _ _ _ _).trans (if_neg hne)
    | some => exact ((fprAt_setFpr _ _ _ _).trans (if_neg hne)).trans (hgpr s _ _)

/-- Trashing what the loads were filling touches the two register files only. -/
theorem trashLoads_eq (s : State) : s.trashLoads = { s with gpr := s.trashLoads.gpr, fpr := s.trashLoads.fpr } := by
  unfold State.trashLoads
  cases s.pipe.gprLate with
  | none => cases s.pipe.fprLate <;> rfl
  | some l =>
    dsimp only
    rw [setGpr_eq]
    cases s.pipe.fprLate <;> rfl

/-- The D-cache line the event names is the one that may be trashed. -/
theorem trashLines_dLineAt (s : State) {dLine : Option Nat} (iLine : Option Nat) {k : Nat} (h : dLine ≠ some k) :
    (s.trashLines dLine iLine).dLineAt k = s.dLineAt k := by
  cases dLine with
  | none => cases iLine <;> rfl
  | some j =>
    have hne : k ≠ j := fun e => h (congrArg some e.symm)
    cases iLine <;> exact sparseGet_sparseSet_of_ne s.dcache hne _

/-- The I-cache line the event names is the one that may be trashed. -/
theorem trashLines_iLineAt (s : State) (dLine : Option Nat) {iLine : Option Nat} {k : Nat} (h : iLine ≠ some k) :
    (s.trashLines dLine iLine).iLineAt k = s.iLineAt k := by
  cases iLine with
  | none => cases dLine <;> rfl
  | some j =>
    have hne : k ≠ j := fun e => h (congrArg some e.symm)
    cases dLine <;> exact sparseGet_sparseSet_of_ne s.icache hne _

/-- The write buffer empty and memory `m`: what a warm reset makes of the buffered stores. -/
def withStoresGone (s : State) (m : List Host.Cell) : State := { s with mem := m, wbuf := [] }

/-- A warm reset part by part. The buffered stores reach memory all or not at all. -/
theorem warmReset_eq (s : State) (dLine iLine : Option Nat) : ∃ m, (m = s.mem ∨ m = s.drain.mem) ∧
    s.warmReset dLine iLine =
      { withStoresGone s m with
        gpr := (withStoresGone s m).trashLoads.gpr
        fpr := (withStoresGone s m).trashLoads.fpr
        dcache := ((withStoresGone s m).trashLines dLine iLine).dcache
        icache := ((withStoresGone s m).trashLines dLine iLine).icache
        cp0 := s.warmCp0, pc := resetVector, npc := resetVector + 4, inDelay := false, utlb := []
        pipe := { Pipe.empty with hiloFresh := s.pipe.hiloFresh }, draws := s.draws + 1 } := by
  have hbuffer : ∃ m, (m = s.mem ∨ m = s.drain.mem) ∧
      (if s.choose .resetBuffer then { s with wbuf := [] } else s.drain) = withStoresGone s m := by
    split
    · exact ⟨s.mem, .inl rfl, rfl⟩
    · exact ⟨s.drain.mem, .inr rfl, rfl⟩
  obtain ⟨m, hm, hstores⟩ := hbuffer
  refine ⟨m, hm, ?_⟩
  rw [State.warmReset, hstores, trashLoads_eq]
  cases dLine <;> cases iLine <;> rfl

/-- SR after a warm reset has the reset value in the bits R571 lists. -/
theorem warmCp0_sr_bits (s : State) :
    s.warmCp0.sr.getLsbD 0 = false ∧ s.warmCp0.sr.getLsbD 1 = false ∧ s.warmCp0.sr.getLsbD 21 = !s.cfg.hasMmu ∧
      s.warmCp0.sr.getLsbD 22 = true := by
  have hbit {i : Nat} (hi : i < 32) (hmask : (0xF21FFF3C : Word).getLsbD i = false) :
      s.warmCp0.sr.getLsbD i = (resetSr s.cfg).getLsbD i := by
    show (mergeBits 0xF21FFF3C (s.free .resetSr) (resetSr s.cfg)).getLsbD i = _
    rw [mergeBits_getLsbD _ _ _ hi, hmask]
    rfl
  rw [hbit (by decide) (by decide), hbit (by decide) (by decide), hbit (by decide) (by decide),
    hbit (by decide) (by decide)]
  exact resetSr_bits s.cfg

theorem step_of_reset {s : State} {dLine iLine : Option Nat} {rest : List Event}
    (h : s.events = .reset dLine iLine :: rest) :
    Machine.step s = .next ({ s with events := rest }.warmReset dLine iLine) := by
  unfold Machine.step
  rw [h]
  rfl

/-- Settles O12. -/
theorem warmResetKeepsMostState : Obligations.WarmResetKeepsMostState := by
  intro s d i rest hevents
  obtain ⟨m, hm, ht⟩ := warmReset_eq { s with events := rest } d i
  obtain ⟨hie, hku, hts, hbev⟩ := warmCp0_sr_bits { s with events := rest }
  refine ⟨_, step_of_reset hevents, ?_⟩
  rw [ht]
  refine ⟨rfl, rfl, rfl, rfl, hie, hku, hbev, hts, rfl, rfl, rfl, fun q hq => ?_, fun q hq => ?_, fun k hk => ?_,
    fun k hk => ?_, ?_, rfl⟩
  · exact trashLoads_gprAt hq
  · exact trashLoads_fprAt hq
  · exact trashLines_dLineAt _ i hk
  · exact trashLines_iLineAt _ d hk
  · refine hm.imp id fun hdrained a => ?_
    rw [hdrained]
    rfl

end Sys2Proof.Proofs
